-- ==== Sys2Proof/Word.lean ====
section
/-! DEFINITION. The word and byte types of the block (spec/10_state.md R17, spec/20_memory.md R38). -/

namespace Sys2Proof

/-- A register of the block, an address, or a data value of one bus access: 32 bits (R17). -/
abbrev Word := BitVec 32

/-- The smallest addressable unit of system memory (R38). -/
abbrev Byte := BitVec 8

end Sys2Proof
end

