-- ==== Sys2Proof/Syntax.lean ====
section
/-! DEFINITION. The syntax of everything that can arrive at the block: the three kinds of instruction of the opcode
table (host register accesses AW, driver requests RQ, engine events EV; spec/30_encoding.md R59), their operands, and
the agenda entries the step reads them from. -/

namespace Sys2Proof

/-- Controller ids 1 and 2 (R6, R8). -/
inductive Ctrl where
  | dma1
  | dma2
  deriving DecidableEq, Repr

/-- A stream index 0..7 of one controller (R8). -/
abbrev StreamIx := Fin 8

/-- The status group of four streams: low 0..3, high 4..7 (R26). -/
inductive Group where
  | low
  | high
  deriving DecidableEq, Repr

/-- The six register slots of one stream (R61); FCR exists only to be refused (R92). -/
inductive SReg where
  | cr
  | ndtr
  | par
  | m0ar
  | m1ar
  | fcr
  deriving DecidableEq, Repr

/-- A register of one controller's window (R61): LISR/HISR, LIFCR/HIFCR, or a stream register. -/
inductive Reg where
  | isr (g : Group)
  | ifcr (g : Group)
  | stream (x : StreamIx) (r : SReg)
  deriving DecidableEq, Repr

/-- The closed set of interrupt events (R11, R107). -/
inductive TransferEvent where
  | halfTransfer
  | transferComplete
  deriving DecidableEq, Repr

/-- The peripheral endpoint a channel pairing names (R69, R113); the spec gives the type no structure. -/
abbrev PeriphId := Nat

/-- A buffer descriptor: address, element width in bytes, length in elements (R69). -/
structure Buf where
  addr  : Word
  width : Nat
  len   : Nat
  deriving DecidableEq, Repr

/-- A target descriptor: peripheral register address, element width in bytes, endpoint (R69). -/
structure Target where
  addr   : Word
  width  : Nat
  periph : PeriphId
  deriving DecidableEq, Repr

/-- The environment's answer to one element access (R16, R96, R100). -/
inductive BusAnswer where
  | ok
  | error
  deriving DecidableEq, Repr

/-- The environment's free inputs to one engine step: whether the peripheral requests an element now, DREQ(c, s), and
how it answers the element access (R16). -/
structure Draw where
  dreq   : Bool
  answer : BusAnswer
  deriving DecidableEq, Repr

/-- The width of a host access, to a register (R41) or to system memory (R42, R43). -/
inductive AccessSize where
  | byte
  | half
  | word
  deriving DecidableEq, Repr

/-- The out-of-band operand record of a request (R69): `b0` is `src` or `buf0`, `b1` is `buf1`. -/
structure OpRecord where
  b0  : Buf
  b1  : Buf
  tgt : Target
  deriving DecidableEq, Repr

/-- One entry of the agenda: what the host, an engine or the environment does next. The port an entry arrives on tells
its format, never its bits (R59). -/
inductive Input where
  /-- A host bus access: AW word, access size, and the data of a write (R41, R60). -/
  | access (aw : BitVec 12) (size : AccessSize) (data : Word)
  /-- A driver request: RQ word and operand record (R69). -/
  | request (rq : BitVec 16) (ops : OpRecord)
  /-- An engine event: EV word and the environment's draw (R16, R72). -/
  | event (ev : BitVec 8) (draw : Draw)
  /-- The host's turn: one host step of the request in progress (R14). -/
  | turn
  /-- A host read of system memory (R42). -/
  | memRead (addr : Word) (size : AccessSize)
  /-- A host write of system memory (R43). -/
  | memWrite (addr : Word) (size : AccessSize) (v : Word)
  /-- The `replace` callback in progress returns this buffer (R124 step 4, R125). -/
  | callbackReturn (nb : Buf)
  deriving DecidableEq, Repr

/-- The instructions: one constructor per row of the opcode table. AW reads take the controller; AW writes take the
controller and the 32-bit data; RQ take controller, stream and operands; EV take controller, stream and, where their
enabling condition reads one, the environment's draw. -/
inductive Instr where
  | rdLISR (c : Ctrl)
  | wrLISR (c : Ctrl) (v : Word)
  | rdHISR (c : Ctrl)
  | wrHISR (c : Ctrl) (v : Word)
  | rdLIFCR (c : Ctrl)
  | wrLIFCR (c : Ctrl) (v : Word)
  | rdHIFCR (c : Ctrl)
  | wrHIFCR (c : Ctrl) (v : Word)
  | rdS0CR (c : Ctrl)
  | wrS0CR (c : Ctrl) (v : Word)
  | rdS0NDTR (c : Ctrl)
  | wrS0NDTR (c : Ctrl) (v : Word)
  | rdS0PAR (c : Ctrl)
  | wrS0PAR (c : Ctrl) (v : Word)
  | rdS0M0AR (c : Ctrl)
  | wrS0M0AR (c : Ctrl) (v : Word)
  | rdS0M1AR (c : Ctrl)
  | wrS0M1AR (c : Ctrl) (v : Word)
  | rdS0FCR (c : Ctrl)
  | wrS0FCR (c : Ctrl) (v : Word)
  | rdS1CR (c : Ctrl)
  | wrS1CR (c : Ctrl) (v : Word)
  | rdS1NDTR (c : Ctrl)
  | wrS1NDTR (c : Ctrl) (v : Word)
  | rdS1PAR (c : Ctrl)
  | wrS1PAR (c : Ctrl) (v : Word)
  | rdS1M0AR (c : Ctrl)
  | wrS1M0AR (c : Ctrl) (v : Word)
  | rdS1M1AR (c : Ctrl)
  | wrS1M1AR (c : Ctrl) (v : Word)
  | rdS1FCR (c : Ctrl)
  | wrS1FCR (c : Ctrl) (v : Word)
  | rdS2CR (c : Ctrl)
  | wrS2CR (c : Ctrl) (v : Word)
  | rdS2NDTR (c : Ctrl)
  | wrS2NDTR (c : Ctrl) (v : Word)
  | rdS2PAR (c : Ctrl)
  | wrS2PAR (c : Ctrl) (v : Word)
  | rdS2M0AR (c : Ctrl)
  | wrS2M0AR (c : Ctrl) (v : Word)
  | rdS2M1AR (c : Ctrl)
  | wrS2M1AR (c : Ctrl) (v : Word)
  | rdS2FCR (c : Ctrl)
  | wrS2FCR (c : Ctrl) (v : Word)
  | rdS3CR (c : Ctrl)
  | wrS3CR (c : Ctrl) (v : Word)
  | rdS3NDTR (c : Ctrl)
  | wrS3NDTR (c : Ctrl) (v : Word)
  | rdS3PAR (c : Ctrl)
  | wrS3PAR (c : Ctrl) (v : Word)
  | rdS3M0AR (c : Ctrl)
  | wrS3M0AR (c : Ctrl) (v : Word)
  | rdS3M1AR (c : Ctrl)
  | wrS3M1AR (c : Ctrl) (v : Word)
  | rdS3FCR (c : Ctrl)
  | wrS3FCR (c : Ctrl) (v : Word)
  | rdS4CR (c : Ctrl)
  | wrS4CR (c : Ctrl) (v : Word)
  | rdS4NDTR (c : Ctrl)
  | wrS4NDTR (c : Ctrl) (v : Word)
  | rdS4PAR (c : Ctrl)
  | wrS4PAR (c : Ctrl) (v : Word)
  | rdS4M0AR (c : Ctrl)
  | wrS4M0AR (c : Ctrl) (v : Word)
  | rdS4M1AR (c : Ctrl)
  | wrS4M1AR (c : Ctrl) (v : Word)
  | rdS4FCR (c : Ctrl)
  | wrS4FCR (c : Ctrl) (v : Word)
  | rdS5CR (c : Ctrl)
  | wrS5CR (c : Ctrl) (v : Word)
  | rdS5NDTR (c : Ctrl)
  | wrS5NDTR (c : Ctrl) (v : Word)
  | rdS5PAR (c : Ctrl)
  | wrS5PAR (c : Ctrl) (v : Word)
  | rdS5M0AR (c : Ctrl)
  | wrS5M0AR (c : Ctrl) (v : Word)
  | rdS5M1AR (c : Ctrl)
  | wrS5M1AR (c : Ctrl) (v : Word)
  | rdS5FCR (c : Ctrl)
  | wrS5FCR (c : Ctrl) (v : Word)
  | rdS6CR (c : Ctrl)
  | wrS6CR (c : Ctrl) (v : Word)
  | rdS6NDTR (c : Ctrl)
  | wrS6NDTR (c : Ctrl) (v : Word)
  | rdS6PAR (c : Ctrl)
  | wrS6PAR (c : Ctrl) (v : Word)
  | rdS6M0AR (c : Ctrl)
  | wrS6M0AR (c : Ctrl) (v : Word)
  | rdS6M1AR (c : Ctrl)
  | wrS6M1AR (c : Ctrl) (v : Word)
  | rdS6FCR (c : Ctrl)
  | wrS6FCR (c : Ctrl) (v : Word)
  | rdS7CR (c : Ctrl)
  | wrS7CR (c : Ctrl) (v : Word)
  | rdS7NDTR (c : Ctrl)
  | wrS7NDTR (c : Ctrl) (v : Word)
  | rdS7PAR (c : Ctrl)
  | wrS7PAR (c : Ctrl) (v : Word)
  | rdS7M0AR (c : Ctrl)
  | wrS7M0AR (c : Ctrl) (v : Word)
  | rdS7M1AR (c : Ctrl)
  | wrS7M1AR (c : Ctrl) (v : Word)
  | rdS7FCR (c : Ctrl)
  | wrS7FCR (c : Ctrl) (v : Word)
  | streamListen (c : Ctrl) (s : StreamIx) (e : TransferEvent)
  | streamUnlisten (c : Ctrl) (s : StreamIx) (e : TransferEvent)
  | streamIsComplete (c : Ctrl) (s : StreamIx)
  | streamHasError (c : Ctrl) (s : StreamIx)
  | streamReset (c : Ctrl) (s : StreamIx)
  | sbStart (c : Ctrl) (s : StreamIx) (chan : Nat) (circ : Bool) (src : Buf) (tgt : Target)
  | sbIsComplete (c : Ctrl) (s : StreamIx)
  | sbHasError (c : Ctrl) (s : StreamIx)
  | sbWait (c : Ctrl) (s : StreamIx)
  | sbReset (c : Ctrl) (s : StreamIx)
  | dbStart (c : Ctrl) (s : StreamIx) (chan : Nat) (buf0 : Buf) (buf1 : Buf) (tgt : Target)
  | dbPoll (c : Ctrl) (s : StreamIx)
  | dbReset (c : Ctrl) (s : StreamIx)
  | evElement (c : Ctrl) (s : StreamIx) (d : Draw)
  | evBusError (c : Ctrl) (s : StreamIx) (d : Draw)
  | evArbError (c : Ctrl) (s : StreamIx)
  | evDrainDone (c : Ctrl) (s : StreamIx)
  deriving DecidableEq, Repr

end Sys2Proof
end

