-- ==== Sys2Proof/Config.lean ====
section
/-! DEFINITION. What an implementation fixes: the constants of the block, and the types of its OPEN parameters with
the spec's defaults (spec/00_scope.md R6, spec/92_eei_decisions.md). The parameters are arguments of the model: a value
of `Params` stands in the state, no step changes it, and a statement about every state is a statement about every value
of them (log 3). -/

namespace Sys2Proof

namespace Config

/-- DMA1_BASE, the physical address of controller 1's window (R50). -/
def dma1Base : Nat := 0x40026000

/-- DMA2_BASE, the physical address of controller 2's window (R50). -/
def dma2Base : Nat := 0x40026400

/-- One past the last address, 2^32 (R6, R47). -/
def addrLimit : Nat := 4294967296

/-- The largest transfer length, MAX_LEN (R6). -/
def maxLen : Nat := 65535

/-- What a byte of system memory that nothing has written reads as. DESIGN CHOICE (log 4), unsafe: the spec leaves the
contents at launch to the launch (R38). -/
def unlistedByte : Byte := 0

end Config

/-- DISABLE_MODE (R6, D10): whether a disable write stops the stream at once or at a later drain step. -/
inductive DisableMode where
  | immediate
  | drain
  deriving DecidableEq, Repr

/-- STALE_HT_POLICY (R6, D11): whether an enable with HTIF set is allowed or is F11. -/
inductive StaleHtPolicy where
  | allow
  | fault
  deriving DecidableEq, Repr

/-- One query of the predicate AllowedPair(c, s, chan, periph) (R113). -/
structure Pairing where
  c      : Ctrl
  s      : StreamIx
  chan   : Nat
  periph : PeriphId
  deriving DecidableEq, Repr

/-- The OPEN parameters (R6). AllowedPair and HT_POINT are functions in the spec; as plain data each is a default and
the list of the arguments where it differs from the default (log 21). -/
structure Params where
  disableMode    : DisableMode
  staleHt        : StaleHtPolicy
  /-- HT_POINT(N) where it is not N div 2, as pairs (N, HT_POINT(N)). -/
  htTable        : List (Nat × Nat)
  /-- What AllowedPair answers for a pairing not listed below. -/
  pairDefault    : Bool
  /-- The pairings for which AllowedPair answers the opposite of `pairDefault`. -/
  pairExceptions : List Pairing
  deriving DecidableEq, Repr

/-- The spec's defaults: `immediate`, `allow`, N div 2 (R6), and every pairing allowed (spec/95_test_vectors.md takes
it so; DESIGN CHOICE, log 3). -/
def Params.spec : Params :=
  { disableMode := .immediate, staleHt := .allow, htTable := [], pairDefault := true, pairExceptions := [] }

end Sys2Proof
end

