-- ==== Sys2Proof/WellFormed.lean ====
section
/-! DEFINITION. Which terms of the syntax an encoding exists for. -/

namespace Sys2Proof

/-- A channel id is 0..7, the width of CHSEL and of the argument field that carries it (R11, R70). -/
def chanOk (chan : Nat) : Bool := decide (chan < 8)

/-- The well-formed instructions: every operand fits the field the encoding gives it. Controller, stream, event and
data fit by their types; a channel id is checked. The operands of a request's operand record are not checked here:
an unsupported width or length is a configuration error of the request (R132), not an encoding that does not exist. -/
def Instr.wf : Instr → Bool
  | .sbStart _ _ chan _ _ _ => chanOk chan
  | .dbStart _ _ chan _ _ _ => chanOk chan
  | _ => true

end Sys2Proof
end

