-- ==== Sys2Proof/Decode.lean ====
section
/-! DEFINITION. Decoding and encoding of the three formats (spec/30_encoding.md). Decoding is total: it gives the
instruction, or says by name why there is none. -/

namespace Sys2Proof

/-! ## Fields and offsets -/

/-- The controller a C bit names: 0 is DMA1, 1 is DMA2 (R60, R69, R72). -/
def ctrlOfBit (b : Bool) : Ctrl := if b then .dma2 else .dma1

/-- The C bit of a controller, as a number. -/
def Ctrl.bit : Ctrl → Nat
  | .dma1 => 0
  | .dma2 => 1

/-- The place of a register slot in its stream's block, in words (R61). -/
def SReg.slot : SReg → Nat
  | .cr => 0
  | .ndtr => 1
  | .par => 2
  | .m0ar => 3
  | .m1ar => 4
  | .fcr => 5

/-- The register slot at a word of a stream's block; a block has six words (R62). -/
def sregAt : Nat → SReg
  | 0 => .cr
  | 1 => .ndtr
  | 2 => .par
  | 3 => .m0ar
  | 4 => .m1ar
  | _ => .fcr

/-- The byte offset of a register in its controller's window (R61). -/
def Reg.offset : Reg → Nat
  | .isr .low => 0x000
  | .isr .high => 0x004
  | .ifcr .low => 0x008
  | .ifcr .high => 0x00C
  | .stream x r => 0x010 + 0x18 * x.val + 4 * r.slot

/-- The register at a word-aligned offset, none where the window is unmapped (R62). -/
def regAt (off : Nat) : Option Reg :=
  if off < 0x010 then
    some (if off / 4 = 0 then .isr .low else if off / 4 = 1 then .isr .high
      else if off / 4 = 2 then .ifcr .low else .ifcr .high)
  else if off < 0x0D0 then
    some (.stream (Fin.ofNat 8 ((off - 0x010) / 0x18)) (sregAt ((off - 0x010) % 0x18 / 4)))
  else none

/-- The event an argument bit names: 0 HalfTransfer, 1 TransferComplete (R70). -/
def eventOfArg (a : Nat) : TransferEvent := if a = 0 then .halfTransfer else .transferComplete

/-- The argument bit of an event (R70). -/
def TransferEvent.arg : TransferEvent → Nat
  | .halfTransfer => 0
  | .transferComplete => 1

/-! ## The register access of a register -/

/-- The read access of stream register `r` of stream `x` (R61, R62). -/
def rdStream (c : Ctrl) (x : StreamIx) (r : SReg) : Instr :=
  match r with
  | .cr =>
    match x with
    | 0 => .rdS0CR c
    | 1 => .rdS1CR c
    | 2 => .rdS2CR c
    | 3 => .rdS3CR c
    | 4 => .rdS4CR c
    | 5 => .rdS5CR c
    | 6 => .rdS6CR c
    | 7 => .rdS7CR c
  | .ndtr =>
    match x with
    | 0 => .rdS0NDTR c
    | 1 => .rdS1NDTR c
    | 2 => .rdS2NDTR c
    | 3 => .rdS3NDTR c
    | 4 => .rdS4NDTR c
    | 5 => .rdS5NDTR c
    | 6 => .rdS6NDTR c
    | 7 => .rdS7NDTR c
  | .par =>
    match x with
    | 0 => .rdS0PAR c
    | 1 => .rdS1PAR c
    | 2 => .rdS2PAR c
    | 3 => .rdS3PAR c
    | 4 => .rdS4PAR c
    | 5 => .rdS5PAR c
    | 6 => .rdS6PAR c
    | 7 => .rdS7PAR c
  | .m0ar =>
    match x with
    | 0 => .rdS0M0AR c
    | 1 => .rdS1M0AR c
    | 2 => .rdS2M0AR c
    | 3 => .rdS3M0AR c
    | 4 => .rdS4M0AR c
    | 5 => .rdS5M0AR c
    | 6 => .rdS6M0AR c
    | 7 => .rdS7M0AR c
  | .m1ar =>
    match x with
    | 0 => .rdS0M1AR c
    | 1 => .rdS1M1AR c
    | 2 => .rdS2M1AR c
    | 3 => .rdS3M1AR c
    | 4 => .rdS4M1AR c
    | 5 => .rdS5M1AR c
    | 6 => .rdS6M1AR c
    | 7 => .rdS7M1AR c
  | .fcr =>
    match x with
    | 0 => .rdS0FCR c
    | 1 => .rdS1FCR c
    | 2 => .rdS2FCR c
    | 3 => .rdS3FCR c
    | 4 => .rdS4FCR c
    | 5 => .rdS5FCR c
    | 6 => .rdS6FCR c
    | 7 => .rdS7FCR c

/-- The read access of a register (R61, R62). -/
def rdInstr (c : Ctrl) (r : Reg) : Instr :=
  match r with
  | .isr .low => .rdLISR c
  | .isr .high => .rdHISR c
  | .ifcr .low => .rdLIFCR c
  | .ifcr .high => .rdHIFCR c
  | .stream x q => rdStream c x q

/-- The write access of stream register `r` of stream `x` (R61, R62). -/
def wrStream (c : Ctrl) (x : StreamIx) (r : SReg) (v : Word) : Instr :=
  match r with
  | .cr =>
    match x with
    | 0 => .wrS0CR c v
    | 1 => .wrS1CR c v
    | 2 => .wrS2CR c v
    | 3 => .wrS3CR c v
    | 4 => .wrS4CR c v
    | 5 => .wrS5CR c v
    | 6 => .wrS6CR c v
    | 7 => .wrS7CR c v
  | .ndtr =>
    match x with
    | 0 => .wrS0NDTR c v
    | 1 => .wrS1NDTR c v
    | 2 => .wrS2NDTR c v
    | 3 => .wrS3NDTR c v
    | 4 => .wrS4NDTR c v
    | 5 => .wrS5NDTR c v
    | 6 => .wrS6NDTR c v
    | 7 => .wrS7NDTR c v
  | .par =>
    match x with
    | 0 => .wrS0PAR c v
    | 1 => .wrS1PAR c v
    | 2 => .wrS2PAR c v
    | 3 => .wrS3PAR c v
    | 4 => .wrS4PAR c v
    | 5 => .wrS5PAR c v
    | 6 => .wrS6PAR c v
    | 7 => .wrS7PAR c v
  | .m0ar =>
    match x with
    | 0 => .wrS0M0AR c v
    | 1 => .wrS1M0AR c v
    | 2 => .wrS2M0AR c v
    | 3 => .wrS3M0AR c v
    | 4 => .wrS4M0AR c v
    | 5 => .wrS5M0AR c v
    | 6 => .wrS6M0AR c v
    | 7 => .wrS7M0AR c v
  | .m1ar =>
    match x with
    | 0 => .wrS0M1AR c v
    | 1 => .wrS1M1AR c v
    | 2 => .wrS2M1AR c v
    | 3 => .wrS3M1AR c v
    | 4 => .wrS4M1AR c v
    | 5 => .wrS5M1AR c v
    | 6 => .wrS6M1AR c v
    | 7 => .wrS7M1AR c v
  | .fcr =>
    match x with
    | 0 => .wrS0FCR c v
    | 1 => .wrS1FCR c v
    | 2 => .wrS2FCR c v
    | 3 => .wrS3FCR c v
    | 4 => .wrS4FCR c v
    | 5 => .wrS5FCR c v
    | 6 => .wrS6FCR c v
    | 7 => .wrS7FCR c v

/-- The write access of a register (R61, R62). -/
def wrInstr (c : Ctrl) (r : Reg) (v : Word) : Instr :=
  match r with
  | .isr .low => .wrLISR c v
  | .isr .high => .wrHISR c v
  | .ifcr .low => .wrLIFCR c v
  | .ifcr .high => .wrHIFCR c v
  | .stream x q => wrStream c x q v

/-! ## Decoding -/

/-- Why a word is no instruction. -/
inductive Reject where
  /-- A byte or halfword access, or an offset not a multiple of 4: F5 (R41, R62). -/
  | badAccessWidth
  /-- An offset 0x0D0..0x3FC: F4 (R62). -/
  | unmapped
  /-- A reserved request code or a must-be-zero argument bit that is 1: F17 (R71). -/
  | badRequest
  /-- An event code other than 1..4: no such event (R72). -/
  | noSuchEvent
  /-- The agenda entry carries no instruction word (a turn, a memory access, a callback's return). -/
  | notAWord
  deriving DecidableEq, Repr

/-- Decoding an access word (R62): alignment before the map (R138). -/
def decodeAw (aw : BitVec 12) (size : AccessSize) (data : Word) : Except Reject Instr :=
  if size = .word ∧ aw.toNat % 4 = 0 then
    match regAt (aw.toNat % 1024) with
    | none => .error .unmapped
    | some r =>
      if aw.getLsbD 11 then .ok (wrInstr (ctrlOfBit (aw.getLsbD 10)) r data)
      else .ok (rdInstr (ctrlOfBit (aw.getLsbD 10)) r)
  else .error .badAccessWidth

/-- The instruction of request code `op` with argument byte `a` (R70, R71): a code's argument byte is below the
bound its layout gives, every bit above being must-be-zero. -/
def requestOf (op : Nat) (c : Ctrl) (s : StreamIx) (a : Nat) (ops : OpRecord) : Except Reject Instr :=
  match op with
  | 1 => if a < 2 then .ok (.streamListen c s (eventOfArg a)) else .error .badRequest
  | 2 => if a < 2 then .ok (.streamUnlisten c s (eventOfArg a)) else .error .badRequest
  | 3 => if a = 0 then .ok (.streamIsComplete c s) else .error .badRequest
  | 4 => if a = 0 then .ok (.streamHasError c s) else .error .badRequest
  | 5 => if a = 0 then .ok (.streamReset c s) else .error .badRequest
  | 6 => if a < 16 then .ok (.sbStart c s (a % 8) (decide (a / 8 = 1)) ops.b0 ops.tgt) else .error .badRequest
  | 7 => if a = 0 then .ok (.sbIsComplete c s) else .error .badRequest
  | 8 => if a = 0 then .ok (.sbHasError c s) else .error .badRequest
  | 9 => if a = 0 then .ok (.sbWait c s) else .error .badRequest
  | 10 => if a = 0 then .ok (.sbReset c s) else .error .badRequest
  | 11 => if a < 8 then .ok (.dbStart c s a ops.b0 ops.b1 ops.tgt) else .error .badRequest
  | 12 => if a = 0 then .ok (.dbPoll c s) else .error .badRequest
  | 13 => if a = 0 then .ok (.dbReset c s) else .error .badRequest
  | _ => .error .badRequest

/-- Decoding a request word (R69, R71). -/
def decodeRq (rq : BitVec 16) (ops : OpRecord) : Except Reject Instr :=
  requestOf (rq.toNat / 4096) (ctrlOfBit (rq.getLsbD 11)) (Fin.ofNat 8 (rq.toNat / 256)) (rq.toNat % 256) ops

/-- Decoding an event word (R72). -/
def decodeEv (ev : BitVec 8) (d : Draw) : Except Reject Instr :=
  let c := ctrlOfBit (ev.getLsbD 3)
  let s : StreamIx := Fin.ofNat 8 ev.toNat
  match ev.toNat / 16 with
  | 1 => .ok (.evElement c s d)
  | 2 => .ok (.evBusError c s d)
  | 3 => .ok (.evArbError c s)
  | 4 => .ok (.evDrainDone c s)
  | _ => .error .noSuchEvent

/-- Decoding an agenda entry by the port it arrives on (R59). -/
def decode : Input → Except Reject Instr
  | .access aw size data => decodeAw aw size data
  | .request rq ops => decodeRq rq ops
  | .event ev d => decodeEv ev d
  | .turn => .error .notAWord
  | .memRead _ _ => .error .notAWord
  | .memWrite _ _ _ => .error .notAWord
  | .callbackReturn _ => .error .notAWord

/-! ## Physical addresses -/

/-- The first address of a controller's window (R50). -/
def windowBase : Ctrl → Nat
  | .dma1 => Config.dma1Base
  | .dma2 => Config.dma2Base

/-- The physical address of an access word (R60). -/
def awAddr (aw : BitVec 12) : Nat := windowBase (ctrlOfBit (aw.getLsbD 10)) + aw.toNat % 1024

/-! ## Encoding -/

/-- The access word of an access: W, C and OFF (R60). -/
def awWord (w : Bool) (c : Ctrl) (r : Reg) : BitVec 12 :=
  BitVec.ofNat 12 ((if w then 0x800 else 0) + 0x400 * c.bit + r.offset)

/-- The request word of a code, controller, stream and argument byte (R69). -/
def rqWord (op : Nat) (c : Ctrl) (s : StreamIx) (a : Nat) : BitVec 16 :=
  BitVec.ofNat 16 (0x1000 * op + 0x800 * c.bit + 0x100 * s.val + a)

/-- The event word of a code, controller and stream (R72). -/
def evWord (code : Nat) (c : Ctrl) (s : StreamIx) : BitVec 8 :=
  BitVec.ofNat 8 (0x10 * code + 8 * c.bit + s.val)

/-- A buffer descriptor for an operand the request does not take. -/
def Buf.none : Buf := { addr := 0, width := 0, len := 0 }

/-- A target descriptor for an operand the request does not take. -/
def Target.none : Target := { addr := 0, width := 0, periph := 0 }

/-- The operand record of a request without operands (R70). -/
def OpRecord.none : OpRecord := { b0 := Buf.none, b1 := Buf.none, tgt := Target.none }

/-- The draw under which an event's enabling condition does not stop it: DREQ raised, the access answered. -/
def Draw.ok : Draw := { dreq := true, answer := .ok }

/-- The read of a register as an agenda entry; a read carries no data. -/
def encRd (c : Ctrl) (r : Reg) : Input := .access (awWord false c r) .word 0

/-- The write of a register as an agenda entry. -/
def encWr (c : Ctrl) (r : Reg) (v : Word) : Input := .access (awWord true c r) .word v

/-- The agenda entry of an instruction: its word, its operands, its draw (R60, R69, R72). -/
def encode : Instr → Input
  | .rdLISR c => encRd c (.isr .low)
  | .wrLISR c v => encWr c (.isr .low) v
  | .rdHISR c => encRd c (.isr .high)
  | .wrHISR c v => encWr c (.isr .high) v
  | .rdLIFCR c => encRd c (.ifcr .low)
  | .wrLIFCR c v => encWr c (.ifcr .low) v
  | .rdHIFCR c => encRd c (.ifcr .high)
  | .wrHIFCR c v => encWr c (.ifcr .high) v
  | .rdS0CR c => encRd c (.stream 0 .cr)
  | .wrS0CR c v => encWr c (.stream 0 .cr) v
  | .rdS0NDTR c => encRd c (.stream 0 .ndtr)
  | .wrS0NDTR c v => encWr c (.stream 0 .ndtr) v
  | .rdS0PAR c => encRd c (.stream 0 .par)
  | .wrS0PAR c v => encWr c (.stream 0 .par) v
  | .rdS0M0AR c => encRd c (.stream 0 .m0ar)
  | .wrS0M0AR c v => encWr c (.stream 0 .m0ar) v
  | .rdS0M1AR c => encRd c (.stream 0 .m1ar)
  | .wrS0M1AR c v => encWr c (.stream 0 .m1ar) v
  | .rdS0FCR c => encRd c (.stream 0 .fcr)
  | .wrS0FCR c v => encWr c (.stream 0 .fcr) v
  | .rdS1CR c => encRd c (.stream 1 .cr)
  | .wrS1CR c v => encWr c (.stream 1 .cr) v
  | .rdS1NDTR c => encRd c (.stream 1 .ndtr)
  | .wrS1NDTR c v => encWr c (.stream 1 .ndtr) v
  | .rdS1PAR c => encRd c (.stream 1 .par)
  | .wrS1PAR c v => encWr c (.stream 1 .par) v
  | .rdS1M0AR c => encRd c (.stream 1 .m0ar)
  | .wrS1M0AR c v => encWr c (.stream 1 .m0ar) v
  | .rdS1M1AR c => encRd c (.stream 1 .m1ar)
  | .wrS1M1AR c v => encWr c (.stream 1 .m1ar) v
  | .rdS1FCR c => encRd c (.stream 1 .fcr)
  | .wrS1FCR c v => encWr c (.stream 1 .fcr) v
  | .rdS2CR c => encRd c (.stream 2 .cr)
  | .wrS2CR c v => encWr c (.stream 2 .cr) v
  | .rdS2NDTR c => encRd c (.stream 2 .ndtr)
  | .wrS2NDTR c v => encWr c (.stream 2 .ndtr) v
  | .rdS2PAR c => encRd c (.stream 2 .par)
  | .wrS2PAR c v => encWr c (.stream 2 .par) v
  | .rdS2M0AR c => encRd c (.stream 2 .m0ar)
  | .wrS2M0AR c v => encWr c (.stream 2 .m0ar) v
  | .rdS2M1AR c => encRd c (.stream 2 .m1ar)
  | .wrS2M1AR c v => encWr c (.stream 2 .m1ar) v
  | .rdS2FCR c => encRd c (.stream 2 .fcr)
  | .wrS2FCR c v => encWr c (.stream 2 .fcr) v
  | .rdS3CR c => encRd c (.stream 3 .cr)
  | .wrS3CR c v => encWr c (.stream 3 .cr) v
  | .rdS3NDTR c => encRd c (.stream 3 .ndtr)
  | .wrS3NDTR c v => encWr c (.stream 3 .ndtr) v
  | .rdS3PAR c => encRd c (.stream 3 .par)
  | .wrS3PAR c v => encWr c (.stream 3 .par) v
  | .rdS3M0AR c => encRd c (.stream 3 .m0ar)
  | .wrS3M0AR c v => encWr c (.stream 3 .m0ar) v
  | .rdS3M1AR c => encRd c (.stream 3 .m1ar)
  | .wrS3M1AR c v => encWr c (.stream 3 .m1ar) v
  | .rdS3FCR c => encRd c (.stream 3 .fcr)
  | .wrS3FCR c v => encWr c (.stream 3 .fcr) v
  | .rdS4CR c => encRd c (.stream 4 .cr)
  | .wrS4CR c v => encWr c (.stream 4 .cr) v
  | .rdS4NDTR c => encRd c (.stream 4 .ndtr)
  | .wrS4NDTR c v => encWr c (.stream 4 .ndtr) v
  | .rdS4PAR c => encRd c (.stream 4 .par)
  | .wrS4PAR c v => encWr c (.stream 4 .par) v
  | .rdS4M0AR c => encRd c (.stream 4 .m0ar)
  | .wrS4M0AR c v => encWr c (.stream 4 .m0ar) v
  | .rdS4M1AR c => encRd c (.stream 4 .m1ar)
  | .wrS4M1AR c v => encWr c (.stream 4 .m1ar) v
  | .rdS4FCR c => encRd c (.stream 4 .fcr)
  | .wrS4FCR c v => encWr c (.stream 4 .fcr) v
  | .rdS5CR c => encRd c (.stream 5 .cr)
  | .wrS5CR c v => encWr c (.stream 5 .cr) v
  | .rdS5NDTR c => encRd c (.stream 5 .ndtr)
  | .wrS5NDTR c v => encWr c (.stream 5 .ndtr) v
  | .rdS5PAR c => encRd c (.stream 5 .par)
  | .wrS5PAR c v => encWr c (.stream 5 .par) v
  | .rdS5M0AR c => encRd c (.stream 5 .m0ar)
  | .wrS5M0AR c v => encWr c (.stream 5 .m0ar) v
  | .rdS5M1AR c => encRd c (.stream 5 .m1ar)
  | .wrS5M1AR c v => encWr c (.stream 5 .m1ar) v
  | .rdS5FCR c => encRd c (.stream 5 .fcr)
  | .wrS5FCR c v => encWr c (.stream 5 .fcr) v
  | .rdS6CR c => encRd c (.stream 6 .cr)
  | .wrS6CR c v => encWr c (.stream 6 .cr) v
  | .rdS6NDTR c => encRd c (.stream 6 .ndtr)
  | .wrS6NDTR c v => encWr c (.stream 6 .ndtr) v
  | .rdS6PAR c => encRd c (.stream 6 .par)
  | .wrS6PAR c v => encWr c (.stream 6 .par) v
  | .rdS6M0AR c => encRd c (.stream 6 .m0ar)
  | .wrS6M0AR c v => encWr c (.stream 6 .m0ar) v
  | .rdS6M1AR c => encRd c (.stream 6 .m1ar)
  | .wrS6M1AR c v => encWr c (.stream 6 .m1ar) v
  | .rdS6FCR c => encRd c (.stream 6 .fcr)
  | .wrS6FCR c v => encWr c (.stream 6 .fcr) v
  | .rdS7CR c => encRd c (.stream 7 .cr)
  | .wrS7CR c v => encWr c (.stream 7 .cr) v
  | .rdS7NDTR c => encRd c (.stream 7 .ndtr)
  | .wrS7NDTR c v => encWr c (.stream 7 .ndtr) v
  | .rdS7PAR c => encRd c (.stream 7 .par)
  | .wrS7PAR c v => encWr c (.stream 7 .par) v
  | .rdS7M0AR c => encRd c (.stream 7 .m0ar)
  | .wrS7M0AR c v => encWr c (.stream 7 .m0ar) v
  | .rdS7M1AR c => encRd c (.stream 7 .m1ar)
  | .wrS7M1AR c v => encWr c (.stream 7 .m1ar) v
  | .rdS7FCR c => encRd c (.stream 7 .fcr)
  | .wrS7FCR c v => encWr c (.stream 7 .fcr) v
  | .streamListen c s e => .request (rqWord 1 c s e.arg) OpRecord.none
  | .streamUnlisten c s e => .request (rqWord 2 c s e.arg) OpRecord.none
  | .streamIsComplete c s => .request (rqWord 3 c s 0) OpRecord.none
  | .streamHasError c s => .request (rqWord 4 c s 0) OpRecord.none
  | .streamReset c s => .request (rqWord 5 c s 0) OpRecord.none
  | .sbStart c s chan circ src tgt =>
    .request (rqWord 6 c s (chan + (if circ then 8 else 0))) { b0 := src, b1 := Buf.none, tgt := tgt }
  | .sbIsComplete c s => .request (rqWord 7 c s 0) OpRecord.none
  | .sbHasError c s => .request (rqWord 8 c s 0) OpRecord.none
  | .sbWait c s => .request (rqWord 9 c s 0) OpRecord.none
  | .sbReset c s => .request (rqWord 10 c s 0) OpRecord.none
  | .dbStart c s chan buf0 buf1 tgt => .request (rqWord 11 c s chan) { b0 := buf0, b1 := buf1, tgt := tgt }
  | .dbPoll c s => .request (rqWord 12 c s 0) OpRecord.none
  | .dbReset c s => .request (rqWord 13 c s 0) OpRecord.none
  | .evElement c s d => .event (evWord 1 c s) d
  | .evBusError c s d => .event (evWord 2 c s) d
  | .evArbError c s => .event (evWord 3 c s) Draw.ok
  | .evDrainDone c s => .event (evWord 4 c s) Draw.ok

/-! ## The opcode table's words -/

/-- The draw that goes with a table word of the event port: an access answered `error` for EV_BUS_ERROR, `ok` for the
others (R72; log 11). -/
def tableDraw (ev : BitVec 8) : Draw :=
  { dreq := true, answer := if ev.toNat / 16 = 2 then .error else .ok }

/-- The agenda entry of a word of the opcode table: 8 bits are an EV word; 12 bits, or 16 bits with the top four 0, an
AW word; other 16-bit words an RQ word. No RQ row has a code of 0, which is reserved (R70), so each row's word goes to
its own port (log 12). Data and operand record are 0. -/
def tableInput (nbits w : Nat) : Option Input :=
  if nbits = 8 then some (.event (BitVec.ofNat 8 w) (tableDraw (BitVec.ofNat 8 w)))
  else if nbits = 12 then some (.access (BitVec.ofNat 12 w) .word 0)
  else if nbits = 16 then
    some (if w % 65536 < 4096 then .access (BitVec.ofNat 12 w) .word 0
      else .request (BitVec.ofNat 16 w) OpRecord.none)
  else none

/-- The instruction the decoder reads from a word of the opcode table. -/
def decodeTableWord (nbits w : Nat) : Option Instr :=
  match tableInput nbits w with
  | none => none
  | some i =>
    match decode i with
    | .ok x => some x
    | .error _ => none

end Sys2Proof
end

