-- ==== Sys2Proof/Machine/State.lean ====
section
/-! DEFINITION. The state of the machine as plain data, the reasons a step stops, and the state after reset
(spec/10_state.md). Everything the spec names is here: INVENTORY.md lists it. -/

namespace Sys2Proof.Machine

/-- The model faults F1..F18 (R133): sticky marks in the state, raised by next states, never outcomes of a step. -/
inductive ModelFault where
  /-- F1 PROTECTED_WRITE. -/
  | protectedWrite
  /-- F2 LOCKED_ADDR_WRITE. -/
  | lockedAddrWrite
  /-- F3 RESERVED_BIT. -/
  | reservedBit
  /-- F4 UNMAPPED. -/
  | unmapped
  /-- F5 BAD_ACCESS_WIDTH. -/
  | badAccessWidth
  /-- F6 RO_WRITE. -/
  | roWrite
  /-- F7 WO_READ. -/
  | woRead
  /-- F8 FCR_ACCESS. -/
  | fcrAccess
  /-- F9 UNMODELLED_CONFIG. -/
  | unmodelledConfig
  /-- F10 ZERO_COUNT. -/
  | zeroCount
  /-- F11 STALE_FLAGS. -/
  | staleFlags
  /-- F12 MISALIGNED. -/
  | misaligned
  /-- F13 ADDR_WRAP. -/
  | addrWrap
  /-- F14 NOT_OWNER. -/
  | notOwner
  /-- F15 REPLACE_MISMATCH. -/
  | replaceMismatch
  /-- F16 BUFFER_RACE. -/
  | bufferRace
  /-- F17 BAD_REQUEST. -/
  | badRequest
  /-- F18 AFTER_ERROR. -/
  | afterError
  deriving DecidableEq, Repr

/-- The configuration errors CE1..CE5 a start request returns (R132). -/
inductive CfgError where
  /-- CE1 UnsupportedWidth. -/
  | unsupportedWidth
  /-- CE2 LengthMismatch. -/
  | lengthMismatch
  /-- CE3 BadLength. -/
  | badLength
  /-- CE4 InvalidPairing. -/
  | invalidPairing
  /-- CE5 WidthMismatch. -/
  | widthMismatch
  deriving DecidableEq, Repr

/-- The ghost cause of the last transfer error: none, TE1 BUS or TE2 ARB (R30, R131). -/
inductive TeCause where
  | none
  | bus
  | arb
  deriving DecidableEq, Repr

/-- One peripheral write in the ghost output log: (addr, n, v) (R30, R44). -/
structure PeriphWrite where
  addr  : Word
  size  : Nat
  value : Word
  deriving DecidableEq, Repr

/-- One host bus access in the ghost trace: its AW word, and its data, written or read (R30). -/
structure BusAccess where
  aw   : BitVec 12
  data : Word
  deriving DecidableEq, Repr

/-- The single-transfer record of a stream checked out as SINGLE (R33). -/
structure SingleRec where
  src     : Buf
  tgt     : Target
  chan    : Nat
  circ    : Bool
  started : Bool
  errSeen : Bool
  deriving DecidableEq, Repr

/-- The double-transfer record of a stream checked out as DOUBLE (R34). `marker` is the last observed current target,
`false` for buffer 0 and `true` for buffer 1, and `inReplace` the buffer whose `replace` callback runs. -/
structure DoubleRec where
  buf0      : Buf
  buf1      : Buf
  tgt       : Target
  chan      : Nat
  started   : Bool
  marker    : Bool
  inReplace : Option Bool
  deriving DecidableEq, Repr

/-- The controller FSM state of a stream, with its record (R32, R33, R34). -/
inductive Fsm where
  | idle
  | single (r : SingleRec)
  | double (r : DoubleRec)
  deriving DecidableEq, Repr

/-- Everything one stream holds (R17 to R34). -/
structure Stream where
  cr        : Word
  ndtr      : BitVec 16
  par       : Word
  m0ar      : Word
  m1ar      : Word
  tcif      : Bool
  htif      : Bool
  teif      : Bool
  reload    : BitVec 16
  disabling : Bool
  teCause   : TeCause
  passes    : Nat
  outlog    : List PeriphWrite
  fsm       : Fsm
  deriving DecidableEq, Repr

/-- What a finished access or request hands back to the host (R9, R135). -/
inductive Return where
  /-- Nothing has been returned yet. -/
  | none
  /-- A register or memory write, or a request without a result, is done. -/
  | done
  /-- The value of a register or memory read. -/
  | word (v : Word)
  /-- The answer of a status query (R109, R110, R118, R119). -/
  | bool (b : Bool)
  /-- The live transfer of a start request (R116, R123). -/
  | transfer
  /-- The reclaimed stream of a release (R121, R129). -/
  | stream
  /-- SB_WAIT's success, with the stream (R120). -/
  | success
  /-- SB_WAIT's or DB_POLL's failure, with the stream (R120, R124). -/
  | failure
  /-- DB_POLL's Continue, the same live transfer (R124). -/
  | cont
  /-- A configuration error (R132). -/
  | cfgError (e : CfgError)
  /-- The access or request ended at a model fault (R133; log 5). -/
  | faulted (f : ModelFault)
  deriving DecidableEq, Repr

/-- One host step still to do in a request in progress (R14). `t` below is the value the frame's last SxCR read gave. -/
inductive HostOp where
  /-- `t <- BusRead(SxCR)`. -/
  | readCr
  /-- `BusWrite(SxCR, (t & ~mask) | val)`, the second half of wCR. -/
  | writeCr (mask val : Word)
  /-- `BusWrite` of another stream register. -/
  | writeReg (r : SReg) (v : Word)
  /-- `BusWrite(IFCR(s), TCbit(s) | TEbit(s))`, step 3 of RESET_SEQ (R111). -/
  | clearFlags
  /-- `fsm[c][s].started <- 1`. -/
  | markStarted
  /-- `fsm[c][s] <- IDLE`. -/
  | release
  /-- Step a of SB_WAIT's loop (R120). -/
  | waitTc
  /-- Step b of SB_WAIT's loop (R120). -/
  | waitTe
  /-- Step 1 of DB_POLL (R124). -/
  | pollError
  /-- Steps 2, 3 and the start of step 4 of DB_POLL (R124). -/
  | pollTarget
  /-- The `replace` callback for buffer `old` runs; `ct` is the target read (R124, R125). -/
  | inCallback (old ct : Bool)
  /-- The rest of step 4 of DB_POLL, with the callback's result `nb` (R124). -/
  | install (old ct : Bool) (nb : Buf)
  deriving DecidableEq, Repr

/-- A driver request in progress: its stream, the SxCR value it last read, the host steps left, and what it returns
when none is left (R14). -/
structure Frame where
  c      : Ctrl
  s      : StreamIx
  t      : Word
  ops    : List HostOp
  result : Return
  deriving DecidableEq, Repr

/-- The machine. -/
structure State where
  /-- The sixteen streams, controller 1's first (R13, R146). -/
  streams : Vector Stream 16
  /-- System memory: the bytes that differ from `Config.unlistedByte`, by rising address (R38). -/
  mem     : List Host.Cell
  /-- The set of model faults raised, in rising order (R37). -/
  faults  : List ModelFault
  /-- The ghost trace, oldest access first (R30). -/
  trace   : List BusAccess
  /-- The requests in progress, innermost first: more than one only inside `replace` callbacks (R14, R125). -/
  stack   : List Frame
  /-- What was last handed back to the host. The model's own (log 16). -/
  ret     : Return
  /-- The agenda: what happens next. The model's own (log 1). -/
  inputs  : List Input
  /-- The OPEN parameters; no step changes them (R6; log 3). -/
  params  : Params
  deriving DecidableEq, Repr

/-- Why a step stops: there is no such step. The spec's own word is "stuck" (spec/93 U28). All are safe. -/
inductive Fault where
  /-- No agent has a step: the agenda offers none, or offers the host a turn that has nothing to do. Raised by `step`.
  Safe: nothing would happen. -/
  | noStep
  /-- An event code the engine does not have (R72). Raised by `step`. Safe: the spec has no such step. -/
  | noSuchEvent
  /-- An engine event whose enabling condition does not hold (R72, R93). Raised by the four events. Safe: the spec has
  no such step. -/
  | notEnabled
  /-- A callback's return when no `replace` callback runs (R125). Raised by `step`. Safe: the spec has no such step. -/
  | noCallback
  /-- An element step of an engine whose registers R94 rules out: an element size of no width, or a count outside
  1..reload. Raised by EV_ELEMENT. Safe: no run reaches such a state (log 10). -/
  | brokenEngine
  deriving DecidableEq, Repr

/-- Why an instruction has no meaning. -/
inductive Refusal where
  /-- An instruction not modelled yet. Raised by `exec`'s arm of it, of which there is none. Safe. -/
  | notModelled (mnemonic : String)
  deriving DecidableEq, Repr

/-- A stream after controller reset (R39). -/
def Stream.reset : Stream :=
  { cr := 0, ndtr := 0, par := 0, m0ar := 0, m1ar := 0, tcif := false, htif := false, teif := false, reload := 0,
    disabling := false, teCause := .none, passes := 0, outlog := [], fsm := .idle }

/-- The machine right after reset of both controllers (R39, R144, R145). The registers, flags, FSM, faults and ghosts
are the spec's; memory lists nothing (log 4), the agenda is empty (log 1), nothing has been returned (log 16), and the
parameters are the spec's defaults (log 3). -/
def State.reset : State :=
  { streams := Vector.replicate 16 Stream.reset, mem := [], faults := [], trace := [], stack := [], ret := .none,
    inputs := [], params := Params.spec }

end Sys2Proof.Machine
end

