-- ==== Sys2Proof/Machine/Flags.lean ====
section
/-! DEFINITION. The fields of SxCR, the status flags and their places in the group registers, and the views derived
from them: engine state, transfer phase, interrupt line (spec/30_encoding.md R63, R67, R68). -/

namespace Sys2Proof.Machine

/-! ## Fields of SxCR (R63) -/

/-- EN, the stream-enable flag. -/
def crEn (cr : Word) : Bool := cr.getLsbD 0
/-- DMEIE, direct-mode error interrupt enable. -/
def crDmeie (cr : Word) : Bool := cr.getLsbD 1
/-- TEIE, transfer error interrupt enable. -/
def crTeie (cr : Word) : Bool := cr.getLsbD 2
/-- HTIE, interrupt enable for HalfTransfer. -/
def crHtie (cr : Word) : Bool := cr.getLsbD 3
/-- TCIE, interrupt enable for TransferComplete. -/
def crTcie (cr : Word) : Bool := cr.getLsbD 4
/-- PFCTRL, peripheral flow control. -/
def crPfctrl (cr : Word) : Bool := cr.getLsbD 5
/-- DIR, direction. -/
def crDir (cr : Word) : BitVec 2 := cr.extractLsb' 6 2
/-- CIRC, circular flag. -/
def crCirc (cr : Word) : Bool := cr.getLsbD 8
/-- PINC, peripheral increment flag. -/
def crPinc (cr : Word) : Bool := cr.getLsbD 9
/-- MINC, memory increment flag. -/
def crMinc (cr : Word) : Bool := cr.getLsbD 10
/-- PSIZE, peripheral element size. -/
def crPsize (cr : Word) : BitVec 2 := cr.extractLsb' 11 2
/-- MSIZE, memory element size. -/
def crMsize (cr : Word) : BitVec 2 := cr.extractLsb' 13 2
/-- PINCOS, peripheral increment offset. -/
def crPincos (cr : Word) : Bool := cr.getLsbD 15
/-- PL, priority level; it has no effect (D33). -/
def crPl (cr : Word) : BitVec 2 := cr.extractLsb' 16 2
/-- DBM, double-buffer flag. -/
def crDbm (cr : Word) : Bool := cr.getLsbD 18
/-- CT, current-target flag: `false` is buffer 0, `true` is buffer 1. -/
def crCt (cr : Word) : Bool := cr.getLsbD 19
/-- PBURST, peripheral burst. -/
def crPburst (cr : Word) : BitVec 2 := cr.extractLsb' 21 2
/-- MBURST, memory burst. -/
def crMburst (cr : Word) : BitVec 2 := cr.extractLsb' 23 2
/-- CHSEL, channel-select. -/
def crChsel (cr : Word) : BitVec 3 := cr.extractLsb' 25 3

/-- EN's bit. -/
def enBit : Word := 0x00000001
/-- The always-writable interrupt enables DMEIE, TEIE, HTIE, TCIE. -/
def ieMask : Word := 0x0000001E
/-- CT's bit. -/
def ctBit : Word := 0x00080000
/-- The protected fields, bits [18:5] and [27:21]. -/
def protMask : Word := 0x0FE7FFE0
/-- The reserved bits of SxCR, RSV_CR. -/
def rsvCr : Word := 0xF0100000

/-- SxCR with EN set. -/
def crEnable (cr : Word) : Word := cr ||| enBit
/-- SxCR with EN cleared. -/
def crDisable (cr : Word) : Word := cr &&& ~~~enBit
/-- SxCR with CT toggled (R98). -/
def crToggleCt (cr : Word) : Word := cr ^^^ ctBit
/-- SxCR with the interrupt enables of `v` (R84). -/
def crTakeIe (cr v : Word) : Word := (cr &&& ~~~ieMask) ||| (v &&& ieMask)

/-! ## Status flags and groups (R24, R26, R67, R68) -/

/-- The status group of a stream (R26). -/
def groupOf (x : StreamIx) : Group := if x.val < 4 then .low else .high

/-- The stream at position `k` of a group: 4g + k (R26, R76). -/
def streamAt (g : Group) (k : Fin 4) : StreamIx :=
  match g with
  | .low => ⟨k.val, by omega⟩
  | .high => ⟨4 + k.val, by omega⟩

/-- The base bit b(k) of position `k` in a group register (R67). -/
def flagBase (k : Nat) : Nat :=
  if k = 0 then 0 else if k = 1 then 6 else if k = 2 then 16 else 22

/-- TEbit(s) (R67). -/
def teBit (x : StreamIx) : Word := BitVec.ofNat 32 (2 ^ (flagBase (x.val % 4) + 3))
/-- HTbit(s) (R67). -/
def htBit (x : StreamIx) : Word := BitVec.ofNat 32 (2 ^ (flagBase (x.val % 4) + 4))
/-- TCbit(s) (R67). -/
def tcBit (x : StreamIx) : Word := BitVec.ofNat 32 (2 ^ (flagBase (x.val % 4) + 5))

/-- The defined bits of LIFCR and HIFCR, IFCR_DEF (R68). -/
def ifcrDef : Word := 0x0F7D0F7D

/-- A bit as a word: the mask where the flag is set. -/
def bitIf (b : Bool) (mask : Word) : Word := if b then mask else 0

/-- What one stream contributes to its group's status register; FEIF, DMEIF and reserved bits are 0 (R25, R76). -/
def flagWord (x : StreamIx) (st : Stream) : Word :=
  bitIf st.teif (teBit x) ||| bitIf st.htif (htBit x) ||| bitIf st.tcif (tcBit x)

/-- Whether a word has one of a mask's bits. -/
def hasBits (v mask : Word) : Bool := decide (v &&& mask ≠ 0)

/-- A stream's flags after a write of `v` to its group's clear register: a 1 clears, a 0 keeps (R79). -/
def clearFlagsOf (x : StreamIx) (v : Word) (st : Stream) : Stream :=
  { st with
    teif := st.teif && !hasBits v (teBit x)
    htif := st.htif && !hasBits v (htBit x)
    tcif := st.tcif && !hasBits v (tcBit x) }

/-! ## Derived views -/

/-- `active(c, s)`: enabled, or a drain-mode disable pending (40_register_access.md). -/
def Stream.active (st : Stream) : Bool := crEn st.cr || st.disabling

/-- The engine's states (R93). -/
inductive EngineState where
  | disabled
  | running
  | draining
  deriving DecidableEq, Repr

/-- The engine state of a stream; none where the registers fit no row of R93. -/
def Stream.engine (st : Stream) : Option EngineState :=
  match crEn st.cr, st.disabling with
  | false, false => some .disabled
  | true, false => some .running
  | true, true => some .draining
  | false, true => none

/-- The phases of a transfer (R35). -/
inductive Phase where
  | idle
  | configuring
  | active
  | complete
  | errored
  | stopped
  deriving DecidableEq, Repr

/-- Whether the transfer of a checked-out stream has been started; none for an idle stream (R33, R34). -/
def Fsm.started : Fsm → Option Bool
  | .idle => none
  | .single r => some r.started
  | .double r => some r.started

/-- The phase of a stream (R35). A started stream with EN = 1 and TEIF = 1 meets two rows of R35's table; the error is
given first (no run reaches it, R140; log 24). -/
def Stream.phase (st : Stream) : Phase :=
  match st.fsm.started with
  | none => .idle
  | some false => .configuring
  | some true =>
    if st.teif then .errored else if crEn st.cr then .active else if st.tcif then .complete else .stopped

/-- The interrupt request line (R136). DMEIF is always 0, so its term never contributes (R25). -/
def Stream.irq (st : Stream) : Bool :=
  (st.tcif && crTcie st.cr) || (st.htif && crHtie st.cr) || (st.teif && crTeie st.cr) || (false && crDmeie st.cr)

end Sys2Proof.Machine
end

