-- ==== Sys2Proof/Machine/Operands.lean ====
section
/-! DEFINITION. Operand forms: element widths and their encodings, lengths, pairings, the preconditions of the start
requests, element addresses, and the half-transfer point. -/

namespace Sys2Proof.Machine

/-- The bytes of a host access (R42, R48). -/
def sizeBytes : AccessSize → Nat
  | .byte => 1
  | .half => 2
  | .word => 4

/-! ## Element widths (R64) -/

/-- `bytes(code)`: the width of an element-size code; `11` is reserved and has none. -/
def bytesOf (code : BitVec 2) : Option Nat :=
  if code = 0 then some 1 else if code = 1 then some 2 else if code = 2 then some 4 else none

/-- `enc(w)`: the element-size code of a width of 1, 2 or 4 bytes, as a number. The spec leaves `enc` of any other width
undefined (R64); that it is 0 here is the model's, and nothing uses it: CE1 is returned first (DESIGN CHOICE, log 26). -/
def encWidth (w : Nat) : Nat :=
  if w = 2 then 1 else if w = 4 then 2 else 0

/-- A supported element width. -/
def widthOk (w : Nat) : Bool := w == 1 || w == 2 || w == 4

/-- A length the element counter can hold (R6, R115). -/
def lenOk (n : Nat) : Bool := decide (1 ≤ n) && decide (n ≤ Config.maxLen)

/-! ## Parameters (R6) -/

/-- AllowedPair(c, s, chan, periph) (R113). -/
def allowedPair (p : Params) (c : Ctrl) (s : StreamIx) (chan : Nat) (periph : PeriphId) : Bool :=
  if { c := c, s := s, chan := chan, periph := periph } ∈ p.pairExceptions then !p.pairDefault else p.pairDefault

/-- HT_POINT(N): N div 2 unless the parameter says otherwise (R97). -/
def htPoint (p : Params) (n : Nat) : Nat :=
  match p.htTable.find? (fun e => e.1 == n) with
  | some e => e.2
  | none => n / 2

/-! ## Preconditions of the start requests -/

/-- SB_START's preconditions in the spec's order (R115). -/
def sbCheck (p : Params) (c : Ctrl) (s : StreamIx) (chan : Nat) (src : Buf) (tgt : Target) : Option CfgError :=
  if !widthOk src.width then some .unsupportedWidth
  else if !widthOk tgt.width then some .unsupportedWidth
  else if !lenOk src.len then some .badLength
  else if !allowedPair p c s chan tgt.periph then some .invalidPairing
  else none

/-- DB_START's preconditions in the spec's order (R122). -/
def dbCheck (p : Params) (c : Ctrl) (s : StreamIx) (chan : Nat) (buf0 buf1 : Buf) (tgt : Target) : Option CfgError :=
  if buf0.len ≠ buf1.len then some .lengthMismatch
  else if buf0.width ≠ buf1.width then some .widthMismatch
  else if !widthOk buf0.width then some .unsupportedWidth
  else if !widthOk tgt.width then some .unsupportedWidth
  else if !lenOk buf0.len then some .badLength
  else if !allowedPair p c s chan tgt.periph then some .invalidPairing
  else none

/-! ## Element addresses (R95) -/

/-- The element index within the pass, `reload - NDTR` (R28). -/
def Stream.index (st : Stream) : Nat := st.reload.toNat - st.ndtr.toNat

/-- The base of the buffer the engine drains: M1AR with DBM = 1 and CT = 1, else M0AR (R95). -/
def Stream.drainBase (st : Stream) : Word :=
  if crDbm st.cr && crCt st.cr then st.m1ar else st.m0ar

/-- The memory address of the element, an exact natural (R95, R104). -/
def Stream.maddr (st : Stream) (mb : Nat) : Nat :=
  st.drainBase.toNat + (if crMinc st.cr then st.index * mb else 0)

/-- The peripheral address of the element, an exact natural (R95, R104). -/
def Stream.paddr (st : Stream) (pb : Nat) : Nat :=
  st.par.toNat + (if crPinc st.cr then st.index * pb else 0)

/-! ## Borrowed buffers (R57) -/

/-- Whether byte address `a` lies in a buffer's span `[addr, addr + len * width)`. -/
def bufHolds (b : Buf) (a : Nat) : Bool :=
  decide (b.addr.toNat ≤ a) && decide (a < b.addr.toNat + b.len * b.width)

/-- Whether an access of `n` bytes at `a` touches a buffer. -/
def bufTouched (b : Buf) (a n : Nat) : Bool := (List.range n).any fun j => bufHolds b (a + j)

/-- The buffers a stream's live transfer has borrowed and the host may not write: all but the one whose `replace`
callback runs. A byte of that one that lies in another borrowed buffer as well stays barred; the spec does not say which
of its ban and its exception wins there (R57, R125; DESIGN CHOICE, log 25). -/
def Fsm.borrowed : Fsm → List Buf
  | .idle => []
  | .single r => [r.src]
  | .double r =>
    (if r.inReplace = some false then [] else [r.buf0]) ++ (if r.inReplace = some true then [] else [r.buf1])

/-- Whether a `replace` callback of this transfer is running. -/
def Fsm.replacing : Fsm → Bool
  | .idle => false
  | .single _ => false
  | .double r => r.inReplace.isSome

/-- `buf[k]` of a double transfer (R34). -/
def DoubleRec.buf (r : DoubleRec) (k : Bool) : Buf := if k then r.buf1 else r.buf0

/-- A double transfer with `buf[k]` replaced. -/
def DoubleRec.setBuf (r : DoubleRec) (k : Bool) (b : Buf) : DoubleRec :=
  if k then { r with buf1 := b } else { r with buf0 := b }

end Sys2Proof.Machine
end

