-- ==== Sys2Proof/Machine/Ops.lean ====
section
/-! DEFINITION. The named operations every meaning is written with: the streams, system memory, the ghost trace, raising
a model fault, a transfer error, and the release that returns from one. -/

namespace Sys2Proof.Machine

/-! ## Streams -/

/-- The place of stream (c, s) among the sixteen (R146). -/
def streamIdx (c : Ctrl) (x : StreamIx) : Fin 16 :=
  match c with
  | .dma1 => ⟨x.val, by omega⟩
  | .dma2 => ⟨8 + x.val, by omega⟩

/-- Everything stream (c, s) holds. -/
def State.stream (st : State) (c : Ctrl) (x : StreamIx) : Stream :=
  st.streams[streamIdx c x]

/-- The machine with stream (c, s) replaced. -/
def State.setStream (st : State) (c : Ctrl) (x : StreamIx) (v : Stream) : State :=
  { st with streams := st.streams.set (streamIdx c x).val v (streamIdx c x).isLt }

/-- The machine with the FSM state of stream (c, s) replaced (R32). -/
def State.setFsm (st : State) (c : Ctrl) (x : StreamIx) (f : Fsm) : State :=
  st.setStream c x { st.stream c x with fsm := f }

/-! ## System memory -/

/-- The byte at an address (R38). -/
def readByte (m : List Host.Cell) (a : Nat) : Byte :=
  match m with
  | [] => Config.unlistedByte
  | (k, b) :: rest => if a = k then b else if a < k then Config.unlistedByte else readByte rest a

/-- Memory with the byte at an address written, in the canonical form. -/
def writeByte (m : List Host.Cell) (a : Nat) (v : Byte) : List Host.Cell :=
  match m with
  | [] => if v = Config.unlistedByte then [] else [(a, v)]
  | (k, b) :: rest =>
    if a < k then (if v = Config.unlistedByte then (k, b) :: rest else (a, v) :: (k, b) :: rest)
    else if a = k then (if v = Config.unlistedByte then rest else (a, v) :: rest)
    else (k, b) :: writeByte rest a v

/-- The `n`-byte little-endian value at an address (R42, R45). -/
def memValue (m : List Host.Cell) (a : Nat) (n : Nat) : Nat :=
  match n with
  | 0 => 0
  | k + 1 => (readByte m a).toNat + 256 * memValue m (a + 1) k

/-- MemRead(addr, n), as a 32-bit value (R42); the caller has checked the address. -/
def memRead (m : List Host.Cell) (a n : Nat) : Word := BitVec.ofNat 32 (memValue m a n)

/-- MemWrite(addr, n, v): `n` bytes of `v`, the lowest at the address itself (R43, R45). -/
def memWrite (m : List Host.Cell) (a n : Nat) (v : Word) : List Host.Cell :=
  match n with
  | 0 => m
  | k + 1 => memWrite (writeByte m a (v.setWidth 8)) (a + 1) k (v >>> 8)

/-- Whether an access of `n` bytes at `a` goes past the last address (R42, R47). -/
def wraps (a n : Nat) : Bool := decide (Config.addrLimit < a + n)

/-- Whether every key of a cell list is above `lo`. -/
def keysAbove (lo : Nat) (m : List Host.Cell) : Bool := m.all fun c => decide (lo < c.1)

/-- The canonical form of memory: addresses strictly rising and in the address space, no entry equal to what an
unlisted address reads as. -/
def memWf : List Host.Cell → Bool
  | [] => true
  | (k, b) :: rest =>
    decide (k < Config.addrLimit) && decide (b ≠ Config.unlistedByte) && keysAbove k rest && memWf rest

/-! ## Model faults (R133) -/

/-- The number n of fault code Fn. -/
def ModelFault.code : ModelFault → Nat
  | .protectedWrite => 1
  | .lockedAddrWrite => 2
  | .reservedBit => 3
  | .unmapped => 4
  | .badAccessWidth => 5
  | .roWrite => 6
  | .woRead => 7
  | .fcrAccess => 8
  | .unmodelledConfig => 9
  | .zeroCount => 10
  | .staleFlags => 11
  | .misaligned => 12
  | .addrWrap => 13
  | .notOwner => 14
  | .replaceMismatch => 15
  | .bufferRace => 16
  | .badRequest => 17
  | .afterError => 18

/-- A fault set with one more member, kept in rising order of code; a member already there is not repeated. -/
def insertFault (f : ModelFault) (l : List ModelFault) : List ModelFault :=
  match l with
  | [] => [f]
  | g :: rest => if f.code < g.code then f :: g :: rest else if f = g then g :: rest else g :: insertFault f rest

/-- `raise Fault(Fn)`: the sticky mark, and nothing else (R9, R37, R133). -/
def State.raise (st : State) (f : ModelFault) : State := { st with faults := insertFault f st.faults }

/-- A host step that ends at a model fault: the mark, and the host told so (R133; log 5, log 16). -/
def State.fail (st : State) (f : ModelFault) : State := { st.raise f with ret := .faulted f }

/-- The model fault an undecodable host word raises; an engine has none (R62, R71, R72). -/
def rejectFault : Reject → Option ModelFault
  | .badAccessWidth => some .badAccessWidth
  | .unmapped => some .unmapped
  | .badRequest => some .badRequest
  | .noSuchEvent => none
  | .notAWord => none

/-! ## The ghost trace (R30) -/

/-- The machine with one more access in the trace. -/
def State.log (st : State) (aw : BitVec 12) (data : Word) : State :=
  { st with trace := st.trace ++ [{ aw := aw, data := data }] }

/-! ## Transfer errors, and the return from one (R131, R140) -/

/-- A transfer error on a stream: TEIF set, EN and a pending drain cleared, the ghost cause kept; nothing else
changes (R100, R131). -/
def transferError (cause : TeCause) (st : Stream) : Stream :=
  { st with teif := true, cr := crDisable st.cr, disabling := false, teCause := cause }

/-- RESET_SEQ: one read and two writes (R111). -/
def resetSeq : List HostOp := [.readCr, .writeCr enBit 0, .clearFlags]

/-- RESET_SEQ followed by IDLE, the release (R121, R129, R140). -/
def releaseSeq : List HostOp := resetSeq ++ [.release]

/-- `wCR(mask, val)`: two host steps (43_single_transfer.md). -/
def wCr (mask val : Word) : List HostOp := [.readCr, .writeCr mask val]

end Sys2Proof.Machine
end

