-- ==== Sys2Proof/Machine/Registers.lean ====
section
/-! DEFINITION. The stream register model and the status and clear multiplexers (spec/40_register_access.md): what a read
of each register gives and what a write of each register does, for a raw access and for a driver's access alike. -/

namespace Sys2Proof.Machine

/-! ## Reads -/

/-- What a read of SxCR gives: reserved bits 0, bit 0 reading `active` (R80). -/
def Stream.crRead (st : Stream) : Word :=
  (st.cr &&& ~~~rsvCr &&& ~~~enBit) ||| bitIf st.active enBit

/-- The status register of a group: the flags of its four streams (R76). -/
def State.isr (st : State) (c : Ctrl) (g : Group) : Word :=
  flagWord (streamAt g 0) (st.stream c (streamAt g 0)) ||| flagWord (streamAt g 1) (st.stream c (streamAt g 1)) |||
    flagWord (streamAt g 2) (st.stream c (streamAt g 2)) ||| flagWord (streamAt g 3) (st.stream c (streamAt g 3))

/-- The value of a register, or the fault a read of it raises (R76, R78, R80, R86, R88, R90, R92). -/
def State.regValue (st : State) (c : Ctrl) (r : Reg) : Except ModelFault Word :=
  match r with
  | .isr g => .ok (st.isr c g)
  | .ifcr _ => .error .woRead
  | .stream x .cr => .ok (st.stream c x).crRead
  | .stream x .ndtr => .ok ((st.stream c x).ndtr.setWidth 32)
  | .stream x .par => .ok (st.stream c x).par
  | .stream x .m0ar => .ok (st.stream c x).m0ar
  | .stream x .m1ar => .ok (st.stream c x).m1ar
  | .stream _ .fcr => .error .fcrAccess

/-! ## Enable and disable (R82, R83, R85) -/

/-- Whether an enable with this SxCR has a configuration outside scope: F9's condition (R83). -/
def cfgUnmodelled (cr : Word) : Bool :=
  crDir cr != 1 || crPsize cr == 3 || crMsize cr == 3 || crMsize cr != crPsize cr || crPfctrl cr || crPincos cr ||
    crPburst cr != 0 || crMburst cr != 0 || (crDbm cr && !crCirc cr)

/-- The enable checks in the spec's order: F9, F10, F11 (R83, R138). -/
def enChecks (p : Params) (st : Stream) : Option ModelFault :=
  if cfgUnmodelled st.cr then some .unmodelledConfig
  else if st.ndtr = 0 then some .zeroCount
  else if st.tcif || st.teif then some .staleFlags
  else if st.htif && decide (p.staleHt = .fault) then some .staleFlags
  else none

/-- ENABLE on a stream whose fields are just stored with EN = 0 (R82). -/
def enable (p : Params) (st : Stream) : Stream × Option ModelFault :=
  match enChecks p st with
  | some f => (st, some f)
  | none => ({ st with reload := st.ndtr, passes := 0, teCause := .none, cr := crEnable st.cr }, none)

/-- DISABLE (R85). -/
def disable (p : Params) (st : Stream) : Stream :=
  match p.disableMode with
  | .immediate => { st with cr := crDisable st.cr }
  | .drain => { st with disabling := true }

/-! ## Writes of one stream's registers: the stream after, and the fault raised if any -/

/-- A write of SxCR while the stream is not active (R81). -/
def writeCrInactive (p : Params) (v : Word) (st : Stream) : Stream × Option ModelFault :=
  if v &&& rsvCr ≠ 0 then (st, some .reservedBit)
  else if crEn v then enable p { st with cr := crDisable v }
  else ({ st with cr := crDisable v }, none)

/-- A write of SxCR while the stream is active (R84): the interrupt enables are taken, the written CT is ignored. -/
def writeCrActive (p : Params) (v : Word) (st : Stream) : Stream × Option ModelFault :=
  if v &&& rsvCr ≠ 0 then (st, some .reservedBit)
  else if v &&& protMask ≠ st.cr &&& protMask then (st, some .protectedWrite)
  else if !crEn v && !st.disabling then (disable p { st with cr := crTakeIe st.cr v }, none)
  else ({ st with cr := crTakeIe st.cr v }, none)

/-- A write of SxNDTR (R87). -/
def writeNdtr (v : Word) (st : Stream) : Stream × Option ModelFault :=
  if v.extractLsb' 16 16 ≠ 0 then (st, some .reservedBit)
  else if st.active then (st, some .protectedWrite)
  else ({ st with ndtr := v.setWidth 16 }, none)

/-- A write of SxPAR (R89). -/
def writePar (v : Word) (st : Stream) : Stream × Option ModelFault :=
  if st.active then (st, some .protectedWrite) else ({ st with par := v }, none)

/-- Whether address register `j` may be written: the address lock of the double-buffer alternator (R91). -/
def addrWritable (j : Bool) (st : Stream) : Bool := !st.active || (crDbm st.cr && crCt st.cr != j)

/-- A write of SxM0AR (`j` false) or SxM1AR (`j` true) (R91). -/
def writeMar (j : Bool) (v : Word) (st : Stream) : Stream × Option ModelFault :=
  if addrWritable j st then (if j then { st with m1ar := v } else { st with m0ar := v }, none)
  else (st, some .lockedAddrWrite)

/-- A write of a stream register (R81, R84, R87, R89, R91, R92). -/
def writeStreamReg (p : Params) (r : SReg) (v : Word) (st : Stream) : Stream × Option ModelFault :=
  match r with
  | .cr => if st.active then writeCrActive p v st else writeCrInactive p v st
  | .ndtr => writeNdtr v st
  | .par => writePar v st
  | .m0ar => writeMar false v st
  | .m1ar => writeMar true v st
  | .fcr => (st, some .fcrAccess)

/-! ## Writes of the machine's registers -/

/-- The clear register's write on one stream of the group (R79). -/
def State.clearAt (st : State) (c : Ctrl) (x : StreamIx) (v : Word) : State :=
  st.setStream c x (clearFlagsOf x v (st.stream c x))

/-- Write 1 to clear, on the four streams of a group (R79). -/
def State.clearGroup (st : State) (c : Ctrl) (g : Group) (v : Word) : State :=
  (((st.clearAt c (streamAt g 0) v).clearAt c (streamAt g 1) v).clearAt c (streamAt g 2) v).clearAt c (streamAt g 3) v

/-- What a register write does to the registers, and the fault it raises if any (R77, R79, R81 to R92). -/
def State.regWrite (st : State) (c : Ctrl) (r : Reg) (v : Word) : State × Option ModelFault :=
  match r with
  | .isr _ => (st, some .roWrite)
  | .ifcr g => if v &&& ~~~ifcrDef ≠ 0 then (st, some .reservedBit) else (st.clearGroup c g v, none)
  | .stream x q =>
    ((st.setStream c x (writeStreamReg st.params q v (st.stream c x)).1),
      (writeStreamReg st.params q v (st.stream c x)).2)

/-- The fault mark of a write, if it raised one. -/
def State.raiseOpt (st : State) (f : Option ModelFault) : State :=
  match f with
  | none => st
  | some e => st.raise e

/-- BusWrite: the access enters the trace, the registers change, a fault is marked (R30, R41). -/
def State.busWrite (st : State) (c : Ctrl) (r : Reg) (v : Word) : State :=
  ((st.regWrite c r v).1.log (awWord true c r) v).raiseOpt (st.regWrite c r v).2

/-- BusRead of a register that has a value: the access enters the trace with the value read (R30, R49). -/
def State.busRead (st : State) (c : Ctrl) (r : Reg) (v : Word) : State := st.log (awWord false c r) v

/-! ## Raw host accesses -/

/-- Whether a raw access is one a running `replace` callback may not make: to a register of its own stream (R125, R134;
log 15). -/
def State.barred (st : State) (c : Ctrl) (r : Reg) : Bool :=
  match r with
  | .isr _ => false
  | .ifcr _ => false
  | .stream x _ => (st.stream c x).fsm.replacing

/-- A raw read: the value to the host and into the trace. A faulting read gives 0 (R62, spec/93 U35), and so does one
that a running callback bars, which makes no access and so enters no trace (R134; DEDUCED, log 15). -/
def State.rawRead (st : State) (c : Ctrl) (r : Reg) : State :=
  if st.barred c r then { st.raise .notOwner with ret := .word 0 }
  else
    match st.regValue c r with
    | .ok v => { st.busRead c r v with ret := .word v }
    | .error f => { (st.busRead c r 0).raise f with ret := .word 0 }

/-- A raw write. -/
def State.rawWrite (st : State) (c : Ctrl) (r : Reg) (v : Word) : State :=
  if st.barred c r then st.fail .notOwner
  else
    match (st.regWrite c r v).2 with
    | none => { st.busWrite c r v with ret := .done }
    | some f => { st.busWrite c r v with ret := .faulted f }

/-- A host access the decoder refuses: it enters the trace, is marked, and reads as 0 (R62; log 7). -/
def State.badAccess (st : State) (aw : BitVec 12) (data : Word) (f : ModelFault) : State :=
  if aw.getLsbD 11 then { (st.log aw data).raise f with ret := .faulted f }
  else { (st.log aw 0).raise f with ret := .word 0 }

end Sys2Proof.Machine
end

