-- ==== Sys2Proof/Machine/Sequencer.lean ====
section
/-! DEFINITION. The driver's sequencer: a request is a fixed sequence of host steps (spec/10_state.md R14), held as the
host steps left in a frame, and one host step runs the first of them. Beside it the host's own memory accesses
(spec/20_memory.md R42, R43, R57) and the return of a `replace` callback (spec/44_double_buffer.md R125). -/

namespace Sys2Proof.Machine

/-- The register of a stream's group that holds its flags, ISR(s) (42_stream_ops.md). -/
def isrOf (x : StreamIx) : Reg := .isr (groupOf x)

/-- The clear register of a stream's group, IFCR(s) (42_stream_ops.md). -/
def ifcrOf (x : StreamIx) : Reg := .ifcr (groupOf x)

/-- The value of ISR(s). -/
def State.isrRead (st : State) (c : Ctrl) (x : StreamIx) : Word := st.isr c (groupOf x)

/-- After a host step of a request: the frame with the steps left, or, when none is left, the request returns. -/
def State.advance (st : State) (f : Frame) (rest : List Frame) : State :=
  match f.ops with
  | [] => { st with stack := rest, ret := f.result }
  | _ :: _ => { st with stack := f :: rest }

/-- A host step of a request that raised a model fault ends the request; the fault is already marked (log 5). -/
def State.abort (st : State) (rest : List Frame) (e : ModelFault) : State :=
  { st with stack := rest, ret := .faulted e }

/-- After a driver's bus write: on with the request, or its end at a fault (R30, R133). -/
def State.afterWrite (st : State) (f : Frame) (rest : List Frame) (r : Reg) (v : Word) : State :=
  match (st.regWrite f.c r v).2 with
  | none => (st.busWrite f.c r v).advance f rest
  | some e => (st.busWrite f.c r v).abort rest e

/-- A request whose record is not of the kind its host step needs ends at F14; no run reaches this (log 23). -/
def State.lost (st : State) (rest : List Frame) : State := (st.raise .notOwner).abort rest .notOwner

/-- A record with `started` set (R116 step 16, R123 step 21). -/
def Fsm.start : Fsm → Fsm
  | .idle => .idle
  | .single r => .single { r with started := true }
  | .double r => .double { r with started := true }

/-- Steps 2 and 3 of DB_POLL, and step 4 up to the callback: SxCR is read, and the buffer `marker` is handed to
`replace` if the target has changed (R124). -/
def State.pollTarget (st : State) (f : Frame) (rest : List Frame) : State :=
  match (st.stream f.c f.s).fsm with
  | .double r =>
    let t := (st.stream f.c f.s).crRead
    let st1 := st.busRead f.c (.stream f.s .cr) t
    if crCt t = r.marker then st1.advance { f with ops := [], t := t } rest
    else
      (st1.setFsm f.c f.s (.double { r with inReplace := some r.marker })).advance
        { f with ops := [.inCallback r.marker (crCt t)], t := t } rest
  | .idle => st.lost rest
  | .single _ => st.lost rest

/-- The register that holds buffer `k`'s address, SxM0AR or SxM1AR. -/
def marOf (k : Bool) : SReg := if k then .m1ar else .m0ar

/-- Whether a replacement has the length and width of the buffer it replaces (R124, F15). -/
def replacementOk (nb old : Buf) : Bool := decide (nb.len = old.len) && decide (nb.width = old.width)

/-- The rest of step 4 of DB_POLL: F15, or the address write, and the new buffer and marker (R124). -/
def State.install (st : State) (f : Frame) (rest : List Frame) (old ct : Bool) (nb : Buf) : State :=
  match (st.stream f.c f.s).fsm with
  | .double r =>
    if !replacementOk nb (r.buf old) then (st.raise .replaceMismatch).abort rest .replaceMismatch
    else
      match (st.regWrite f.c (.stream f.s (marOf old)) nb.addr).2 with
      | none =>
        ((st.busWrite f.c (.stream f.s (marOf old)) nb.addr).setFsm f.c f.s
          (.double { r.setBuf old nb with marker := ct })).advance f rest
      | some e => (st.busWrite f.c (.stream f.s (marOf old)) nb.addr).abort rest e
  | .idle => st.lost rest
  | .single _ => st.lost rest

/-- One host step of the innermost request, whose remaining steps were `op` and then `f.ops`. -/
def State.runOp (st : State) (op : HostOp) (f : Frame) (rest : List Frame) : State :=
  match op with
  | .readCr =>
    (st.busRead f.c (.stream f.s .cr) (st.stream f.c f.s).crRead).advance
      { f with t := (st.stream f.c f.s).crRead } rest
  | .writeCr mask val => st.afterWrite f rest (.stream f.s .cr) ((f.t &&& ~~~mask) ||| val)
  | .writeReg r v => st.afterWrite f rest (.stream f.s r) v
  | .clearFlags => st.afterWrite f rest (ifcrOf f.s) (tcBit f.s ||| teBit f.s)
  | .markStarted => (st.setFsm f.c f.s (st.stream f.c f.s).fsm.start).advance f rest
  | .release => (st.setFsm f.c f.s .idle).advance f rest
  | .waitTc =>
    (st.busRead f.c (isrOf f.s) (st.isrRead f.c f.s)).advance
      (if hasBits (st.isrRead f.c f.s) (tcBit f.s) then { f with ops := releaseSeq, result := .success }
        else { f with ops := [.waitTe] }) rest
  | .waitTe =>
    (st.busRead f.c (isrOf f.s) (st.isrRead f.c f.s)).advance
      (if hasBits (st.isrRead f.c f.s) (teBit f.s) then { f with ops := releaseSeq, result := .failure }
        else { f with ops := [.waitTc] }) rest
  | .pollError =>
    (st.busRead f.c (isrOf f.s) (st.isrRead f.c f.s)).advance
      (if hasBits (st.isrRead f.c f.s) (teBit f.s) then { f with ops := releaseSeq, result := .failure }
        else { f with ops := [.pollTarget] }) rest
  | .pollTarget => st.pollTarget f rest
  | .inCallback old ct => { st with stack := { f with ops := .inCallback old ct :: f.ops } :: rest }
  | .install old ct nb => st.install f rest old ct nb

/-- A request begins: the host runs its first host step at once (R106: the checks come before it and are none). -/
def State.beginRequest (st : State) (c : Ctrl) (s : StreamIx) (op : HostOp) (ops : List HostOp) (result : Return) :
    State :=
  st.runOp op { c := c, s := s, t := 0, ops := ops, result := result } st.stack

/-- Whether the host may take something new: no request is in progress, or the innermost one is inside its `replace`
callback (R14, R125). -/
def State.hostReady (st : State) : Bool :=
  match st.stack with
  | [] => true
  | f :: _ =>
    match f.ops with
    | .inCallback _ _ :: _ => true
    | _ => false

/-- The host's turn: one host step of the innermost request; none where it has nothing to do. -/
def State.hostTurn (st : State) : Option State :=
  match st.stack with
  | [] => none
  | f :: rest =>
    match f.ops with
    | [] => some ({ st with stack := rest, ret := f.result })
    | .inCallback _ _ :: _ => none
    | op :: ops => some (st.runOp op { f with ops := ops } rest)

/-- `n` host turns in a row, with no step of another agent between them. -/
def State.hostTurns (st : State) : Nat → Option State
  | 0 => some st
  | n + 1 =>
    match st.hostTurn with
    | none => none
    | some st' => st'.hostTurns n

/-! ## The callback's return -/

/-- The callback of the innermost request returns `nb`: `in_replace <- none`, and the rest of step 4 is left to do
(R124); none where no callback runs. -/
def State.returnCallback (st : State) (nb : Buf) : Option State :=
  match st.stack with
  | [] => none
  | f :: rest =>
    match f.ops with
    | .inCallback old ct :: _ =>
      match (st.stream f.c f.s).fsm with
      | .double r =>
        some { st.setFsm f.c f.s (.double { r with inReplace := none }) with
          stack := { f with ops := [.install old ct nb] } :: rest }
      | .idle => some (st.lost rest)
      | .single _ => some (st.lost rest)
    | _ => none

/-! ## The host's memory accesses -/

/-- A host read of system memory (R42). What one that is F13 hands back the spec does not say; here it is the fault's
name and no value (DESIGN CHOICE, log 16). -/
def State.hostRead (st : State) (a : Word) (size : AccessSize) : State :=
  if wraps a.toNat (sizeBytes size) then st.fail .addrWrap
  else { st with ret := .word (memRead st.mem a.toNat (sizeBytes size)) }

/-- Whether a write of `n` bytes at `a` touches a borrowed buffer of a live transfer (R57), be it one of several that
overlap there (DESIGN CHOICE, log 25). -/
def State.races (st : State) (a n : Nat) : Bool :=
  st.streams.toList.any fun y => y.fsm.borrowed.any fun b => bufTouched b a n

/-- A host write of system memory: F13, then F16, then the bytes (R43, R57; log 14). -/
def State.hostWrite (st : State) (a : Word) (size : AccessSize) (v : Word) : State :=
  if wraps a.toNat (sizeBytes size) then st.fail .addrWrap
  else if st.races a.toNat (sizeBytes size) then st.fail .bufferRace
  else { st with mem := memWrite st.mem a.toNat (sizeBytes size) v, ret := .done }

end Sys2Proof.Machine
end

