-- ==== Sys2Proof/Machine/StreamOps.lean ====
section
/-! DEFINITION. The requests on an idle stream (spec/42_stream_ops.md), and the ownership checks every request makes
before its first host step (R71, R106, R134). -/

namespace Sys2Proof.Machine

/-- A request that needs an IDLE stream: F14 unless it is (R70, R106). -/
def needIdle (c : Ctrl) (s : StreamIx) (st : State) (k : State) : Host.Outcome State Fault Refusal :=
  match (st.stream c s).fsm with
  | .idle => .next k
  | .single _ => .next (st.fail .notOwner)
  | .double _ => .next (st.fail .notOwner)

/-- A request that needs a SINGLE stream: F14 unless it is (R70). -/
def needSingle (c : Ctrl) (s : StreamIx) (st : State) (k : SingleRec → State) : Host.Outcome State Fault Refusal :=
  match (st.stream c s).fsm with
  | .idle => .next (st.fail .notOwner)
  | .single r => .next (k r)
  | .double _ => .next (st.fail .notOwner)

/-- A request that needs a DOUBLE stream outside its own callback: F14 unless it is (R70, R124, R125, R129). -/
def needDouble (c : Ctrl) (s : StreamIx) (st : State) (k : State) : Host.Outcome State Fault Refusal :=
  match (st.stream c s).fsm with
  | .idle => .next (st.fail .notOwner)
  | .single _ => .next (st.fail .notOwner)
  | .double r => if r.inReplace.isSome then .next (st.fail .notOwner) else .next k

/-- A status query: one read of ISR(s), and whether the mask's flag is set (R109, R110). -/
def State.query (st : State) (c : Ctrl) (s : StreamIx) (mask : Word) : State :=
  { st.busRead c (isrOf s) (st.isrRead c s) with ret := .bool (hasBits (st.isrRead c s) mask) }

/-- The SxCR bit of an event: HTIE or TCIE (R107). -/
def eventBit : TransferEvent → Word
  | .halfTransfer => 0x08
  | .transferComplete => 0x10

/-- STREAM_LISTEN (R107): read SxCR now, write it with the event's bit set next. -/
def execStreamListen (c : Ctrl) (s : StreamIx) (e : TransferEvent) (st : State) : Host.Outcome State Fault Refusal :=
  needIdle c s st (st.beginRequest c s .readCr [.writeCr (eventBit e) (eventBit e)] .done)

/-- STREAM_UNLISTEN (R108). -/
def execStreamUnlisten (c : Ctrl) (s : StreamIx) (e : TransferEvent) (st : State) : Host.Outcome State Fault Refusal :=
  needIdle c s st (st.beginRequest c s .readCr [.writeCr (eventBit e) 0] .done)

/-- STREAM_IS_COMPLETE (R109). -/
def execStreamIsComplete (c : Ctrl) (s : StreamIx) (st : State) : Host.Outcome State Fault Refusal :=
  needIdle c s st (st.query c s (tcBit s))

/-- STREAM_HAS_ERROR (R110). -/
def execStreamHasError (c : Ctrl) (s : StreamIx) (st : State) : Host.Outcome State Fault Refusal :=
  needIdle c s st (st.query c s (teBit s))

/-- STREAM_RESET (R112): RESET_SEQ (R111). -/
def execStreamReset (c : Ctrl) (s : StreamIx) (st : State) : Host.Outcome State Fault Refusal :=
  needIdle c s st (st.beginRequest c s .readCr [.writeCr enBit 0, .clearFlags] .done)

end Sys2Proof.Machine
end

