-- ==== Sys2Proof/Machine/SingleTransfer.lean ====
section
/-! DEFINITION. The single-buffer transfer (spec/43_single_transfer.md). -/

namespace Sys2Proof.Machine

/-- The element-size fields of a memory and a peripheral width (R63, R64). -/
def sizeFields (mw pw : Nat) : Word := BitVec.ofNat 32 (encWidth mw * 0x2000 + encWidth pw * 0x800)

/-- Steps 1 to 8 of a start request: sizes, increment, direction, channel (R116, R123). -/
def configSeq (mw pw chan : Nat) : List HostOp :=
  wCr 0x00007800 (sizeFields mw pw) ++ wCr 0x00000600 0x00000400 ++ wCr 0x000000C0 0x00000040 ++
    wCr 0x0E000000 (BitVec.ofNat 32 (chan * 0x2000000))

/-- The last steps of a start request: EN, and `started` (R116, R123). -/
def enableSeq : List HostOp := wCr enBit enBit ++ [.markStarted]

/-- Steps 1 to 16 of SB_START (R116). -/
def sbStartSeq (chan : Nat) (circ : Bool) (src : Buf) (tgt : Target) : List HostOp :=
  configSeq src.width tgt.width chan ++ wCr 0x000C0100 (if circ then 0x00000100 else 0) ++
    [.writeReg .m0ar src.addr, .writeReg .ndtr (BitVec.ofNat 32 src.len), .writeReg .par tgt.addr] ++ enableSeq

/-- A request with a channel id no word encodes (log 13). -/
def needChan (chan : Nat) (st : State) (k : Host.Outcome State Fault Refusal) : Host.Outcome State Fault Refusal :=
  if chanOk chan then k else .next (st.fail .badRequest)

/-- The acquisition of an idle stream, or the configuration error that refuses it (R115, R116 step 0, R132). -/
def State.acquire (st : State) (c : Ctrl) (s : StreamIx) (err : Option CfgError) (f : Fsm) (ops : List HostOp) : State :=
  match err with
  | some e => { st with ret := .cfgError e }
  | none => { st.setFsm c s f with stack := { c := c, s := s, t := 0, ops := ops, result := .transfer } :: st.stack }

/-- SB_START (R115, R116): preconditions and acquisition now, the sixteen host steps after. -/
def execSbStart (c : Ctrl) (s : StreamIx) (chan : Nat) (circ : Bool) (src : Buf) (tgt : Target) (st : State) :
    Host.Outcome State Fault Refusal :=
  needChan chan st (needIdle c s st (st.acquire c s (sbCheck st.params c s chan src tgt)
    (.single { src := src, tgt := tgt, chan := chan, circ := circ, started := false, errSeen := false })
    (sbStartSeq chan circ src tgt)))

/-- A single-transfer query or wait after `has_error` returned true is F18 (R118, R119, R120). -/
def afterErrorOr (st : State) (r : SingleRec) (k : State) : State :=
  if r.errSeen then st.fail .afterError else k

/-- SB_IS_COMPLETE (R118). -/
def execSbIsComplete (c : Ctrl) (s : StreamIx) (st : State) : Host.Outcome State Fault Refusal :=
  needSingle c s st fun r => afterErrorOr st r (st.query c s (tcBit s))

/-- SB_HAS_ERROR (R119): an error seen is recorded. -/
def execSbHasError (c : Ctrl) (s : StreamIx) (st : State) : Host.Outcome State Fault Refusal :=
  needSingle c s st fun r => afterErrorOr st r
    (if hasBits (st.isrRead c s) (teBit s) then
      (st.query c s (teBit s)).setFsm c s (.single { r with errSeen := true })
    else st.query c s (teBit s))

/-- SB_WAIT (R120): the first read of the loop now. -/
def execSbWait (c : Ctrl) (s : StreamIx) (st : State) : Host.Outcome State Fault Refusal :=
  needSingle c s st fun r => afterErrorOr st r (st.beginRequest c s .waitTc [] .none)

/-- SB_RESET (R121): RESET_SEQ and IDLE. -/
def execSbReset (c : Ctrl) (s : StreamIx) (st : State) : Host.Outcome State Fault Refusal :=
  needSingle c s st fun _ => st.beginRequest c s .readCr [.writeCr enBit 0, .clearFlags, .release] .stream

end Sys2Proof.Machine
end

