-- ==== Sys2Proof/Machine/DoubleBuffer.lean ====
section
/-! DEFINITION. The double-buffered transfer and its hand-off protocol (spec/44_double_buffer.md). -/

namespace Sys2Proof.Machine

/-- Steps 1 to 21 of DB_START (R123). -/
def dbStartSeq (chan : Nat) (buf0 buf1 : Buf) (tgt : Target) : List HostOp :=
  configSeq buf0.width tgt.width chan ++ wCr 0x00000100 0x00000100 ++ wCr 0x00040000 0x00040000 ++ wCr 0x00080000 0 ++
    [.writeReg .m0ar buf0.addr, .writeReg .m1ar buf1.addr, .writeReg .ndtr (BitVec.ofNat 32 buf0.len),
      .writeReg .par tgt.addr] ++ enableSeq

/-- DB_START (R122, R123): preconditions and acquisition now, the twenty-one host steps after. -/
def execDbStart (c : Ctrl) (s : StreamIx) (chan : Nat) (buf0 buf1 : Buf) (tgt : Target) (st : State) :
    Host.Outcome State Fault Refusal :=
  needChan chan st (needIdle c s st (st.acquire c s (dbCheck st.params c s chan buf0 buf1 tgt)
    (.double { buf0 := buf0, buf1 := buf1, tgt := tgt, chan := chan, started := false, marker := false, inReplace := none })
    (dbStartSeq chan buf0 buf1 tgt)))

/-- DB_POLL (R124): the error check's read now. -/
def execDbPoll (c : Ctrl) (s : StreamIx) (st : State) : Host.Outcome State Fault Refusal :=
  needDouble c s st (st.beginRequest c s .pollError [] .cont)

/-- DB_RESET (R129): RESET_SEQ and IDLE. -/
def execDbReset (c : Ctrl) (s : StreamIx) (st : State) : Host.Outcome State Fault Refusal :=
  needDouble c s st (st.beginRequest c s .readCr [.writeCr enBit 0, .clearFlags, .release] .stream)

end Sys2Proof.Machine
end

