-- ==== Sys2Proof/Machine/Engine.lean ====
section
/-! DEFINITION. The stream engine, the double-buffer alternator and the status-flag synchronizer: the four engine events
(spec/41_engine.md). -/

namespace Sys2Proof.Machine

/-- BOUNDARY, the last element of a pass (R98), with the alternator's toggle (R99). -/
def boundary (y : Stream) : Stream :=
  if crCirc y.cr then
    { y with
      tcif := true
      passes := y.passes + 1
      ndtr := y.reload
      cr := if crDbm y.cr then crToggleCt y.cr else y.cr }
  else { y with tcif := true, passes := y.passes + 1, ndtr := 0, cr := crDisable y.cr }

/-- A stream after its peripheral write: the log entry, and HTIF where the remaining count is the half point (R96,
R97). -/
def afterMove (p : Params) (pa : Nat) (pb : Nat) (v : Word) (y : Stream) : Stream :=
  { y with
    outlog := y.outlog ++ [{ addr := BitVec.ofNat 32 pa, size := pb, value := v }]
    htif := y.htif || decide (y.ndtr.toNat - 1 = htPoint p y.reload.toNat) }

/-- A stream after one element of value `v` has moved (R96). -/
def moveElement (p : Params) (pa : Nat) (pb : Nat) (v : Word) (y : Stream) : Stream :=
  if y.ndtr.toNat - 1 = 0 then boundary (afterMove p pa pb v y)
  else { afterMove p pa pb v y with ndtr := y.ndtr - 1 }

/-- Whether the counts are ones a running engine has: `1 <= NDTR <= reload` (R94). -/
def Stream.countsOk (y : Stream) : Bool := decide (1 ≤ y.ndtr.toNat) && decide (y.ndtr.toNat ≤ y.reload.toNat)

/-- The element step of a running engine: F13, then F12, then the transfer (R96, R138). -/
def elementStep (c : Ctrl) (s : StreamIx) (st : State) : Host.Outcome State Fault Refusal :=
  let y := st.stream c s
  match bytesOf (crMsize y.cr), bytesOf (crPsize y.cr) with
  | some mb, some pb =>
    if !y.countsOk then .fault .brokenEngine
    else if wraps (y.maddr mb) mb || wraps (y.paddr pb) pb then .next (st.raise .addrWrap)
    else if decide (y.maddr mb % mb ≠ 0) || decide (y.paddr pb % pb ≠ 0) then .next (st.raise .misaligned)
    else .next (st.setStream c s (moveElement st.params (y.paddr pb) pb (memRead st.mem (y.maddr mb) mb) y))
  | _, _ => .fault .brokenEngine

/-- Whether the engine of a stream is Running and the environment raises DREQ and answers so (R72). -/
def accessEnabled (y : Stream) (d : Draw) (a : BusAnswer) : Bool :=
  decide (y.engine = some .running) && d.dreq && decide (d.answer = a)

/-- EV_ELEMENT (R96). -/
def execEvElement (c : Ctrl) (s : StreamIx) (d : Draw) (st : State) : Host.Outcome State Fault Refusal :=
  if accessEnabled (st.stream c s) d .ok then elementStep c s st else .fault .notEnabled

/-- EV_BUS_ERROR (R100). -/
def execEvBusError (c : Ctrl) (s : StreamIx) (d : Draw) (st : State) : Host.Outcome State Fault Refusal :=
  if accessEnabled (st.stream c s) d .error then .next (st.setStream c s (transferError .bus (st.stream c s)))
  else .fault .notEnabled

/-- EV_ARB_ERROR (R100): whenever CR.EN = 1. -/
def execEvArbError (c : Ctrl) (s : StreamIx) (st : State) : Host.Outcome State Fault Refusal :=
  if crEn (st.stream c s).cr then .next (st.setStream c s (transferError .arb (st.stream c s)))
  else .fault .notEnabled

/-- A stream whose drain-mode disable completes (R101). -/
def drainDone (y : Stream) : Stream := { y with cr := crDisable y.cr, disabling := false, tcif := true }

/-- EV_DRAIN_DONE (R101): while `disabling = 1`, under `DISABLE_MODE = drain` only. -/
def execEvDrainDone (c : Ctrl) (s : StreamIx) (st : State) : Host.Outcome State Fault Refusal :=
  if decide (st.params.disableMode = .drain) && (st.stream c s).disabling then
    .next (st.setStream c s (drainDone (st.stream c s)))
  else .fault .notEnabled

end Sys2Proof.Machine
end

