-- ==== Sys2Proof/Machine/RegisterAccess.lean ====
section
/-! DEFINITION. The register accesses of the opcode table, one meaning per row over the shared read and write of
Machine/Registers.lean (spec/40_register_access.md). -/

namespace Sys2Proof.Machine

/-- Read of LISR (R76). -/
def execRdLISR (c : Ctrl) (st : State) : Host.Outcome State Fault Refusal :=
  .next (st.rawRead c (.isr .low))

/-- Write of LISR (R77, F6). -/
def execWrLISR (c : Ctrl) (v : Word) (st : State) : Host.Outcome State Fault Refusal :=
  .next (st.rawWrite c (.isr .low) v)

/-- Read of HISR (R76). -/
def execRdHISR (c : Ctrl) (st : State) : Host.Outcome State Fault Refusal :=
  .next (st.rawRead c (.isr .high))

/-- Write of HISR (R77, F6). -/
def execWrHISR (c : Ctrl) (v : Word) (st : State) : Host.Outcome State Fault Refusal :=
  .next (st.rawWrite c (.isr .high) v)

/-- Read of LIFCR (R78, F7). -/
def execRdLIFCR (c : Ctrl) (st : State) : Host.Outcome State Fault Refusal :=
  .next (st.rawRead c (.ifcr .low))

/-- Write of LIFCR (R79). -/
def execWrLIFCR (c : Ctrl) (v : Word) (st : State) : Host.Outcome State Fault Refusal :=
  .next (st.rawWrite c (.ifcr .low) v)

/-- Read of HIFCR (R78, F7). -/
def execRdHIFCR (c : Ctrl) (st : State) : Host.Outcome State Fault Refusal :=
  .next (st.rawRead c (.ifcr .high))

/-- Write of HIFCR (R79). -/
def execWrHIFCR (c : Ctrl) (v : Word) (st : State) : Host.Outcome State Fault Refusal :=
  .next (st.rawWrite c (.ifcr .high) v)

/-- Read of S0CR (R80). -/
def execRdS0CR (c : Ctrl) (st : State) : Host.Outcome State Fault Refusal :=
  .next (st.rawRead c (.stream 0 .cr))

/-- Write of S0CR (R81 to R85). -/
def execWrS0CR (c : Ctrl) (v : Word) (st : State) : Host.Outcome State Fault Refusal :=
  .next (st.rawWrite c (.stream 0 .cr) v)

/-- Read of S0NDTR (R86). -/
def execRdS0NDTR (c : Ctrl) (st : State) : Host.Outcome State Fault Refusal :=
  .next (st.rawRead c (.stream 0 .ndtr))

/-- Write of S0NDTR (R87). -/
def execWrS0NDTR (c : Ctrl) (v : Word) (st : State) : Host.Outcome State Fault Refusal :=
  .next (st.rawWrite c (.stream 0 .ndtr) v)

/-- Read of S0PAR (R88). -/
def execRdS0PAR (c : Ctrl) (st : State) : Host.Outcome State Fault Refusal :=
  .next (st.rawRead c (.stream 0 .par))

/-- Write of S0PAR (R89). -/
def execWrS0PAR (c : Ctrl) (v : Word) (st : State) : Host.Outcome State Fault Refusal :=
  .next (st.rawWrite c (.stream 0 .par) v)

/-- Read of S0M0AR (R90). -/
def execRdS0M0AR (c : Ctrl) (st : State) : Host.Outcome State Fault Refusal :=
  .next (st.rawRead c (.stream 0 .m0ar))

/-- Write of S0M0AR (R91). -/
def execWrS0M0AR (c : Ctrl) (v : Word) (st : State) : Host.Outcome State Fault Refusal :=
  .next (st.rawWrite c (.stream 0 .m0ar) v)

/-- Read of S0M1AR (R90). -/
def execRdS0M1AR (c : Ctrl) (st : State) : Host.Outcome State Fault Refusal :=
  .next (st.rawRead c (.stream 0 .m1ar))

/-- Write of S0M1AR (R91). -/
def execWrS0M1AR (c : Ctrl) (v : Word) (st : State) : Host.Outcome State Fault Refusal :=
  .next (st.rawWrite c (.stream 0 .m1ar) v)

/-- Read of S0FCR (R92, F8). -/
def execRdS0FCR (c : Ctrl) (st : State) : Host.Outcome State Fault Refusal :=
  .next (st.rawRead c (.stream 0 .fcr))

/-- Write of S0FCR (R92, F8). -/
def execWrS0FCR (c : Ctrl) (v : Word) (st : State) : Host.Outcome State Fault Refusal :=
  .next (st.rawWrite c (.stream 0 .fcr) v)

/-- Read of S1CR (R80). -/
def execRdS1CR (c : Ctrl) (st : State) : Host.Outcome State Fault Refusal :=
  .next (st.rawRead c (.stream 1 .cr))

/-- Write of S1CR (R81 to R85). -/
def execWrS1CR (c : Ctrl) (v : Word) (st : State) : Host.Outcome State Fault Refusal :=
  .next (st.rawWrite c (.stream 1 .cr) v)

/-- Read of S1NDTR (R86). -/
def execRdS1NDTR (c : Ctrl) (st : State) : Host.Outcome State Fault Refusal :=
  .next (st.rawRead c (.stream 1 .ndtr))

/-- Write of S1NDTR (R87). -/
def execWrS1NDTR (c : Ctrl) (v : Word) (st : State) : Host.Outcome State Fault Refusal :=
  .next (st.rawWrite c (.stream 1 .ndtr) v)

/-- Read of S1PAR (R88). -/
def execRdS1PAR (c : Ctrl) (st : State) : Host.Outcome State Fault Refusal :=
  .next (st.rawRead c (.stream 1 .par))

/-- Write of S1PAR (R89). -/
def execWrS1PAR (c : Ctrl) (v : Word) (st : State) : Host.Outcome State Fault Refusal :=
  .next (st.rawWrite c (.stream 1 .par) v)

/-- Read of S1M0AR (R90). -/
def execRdS1M0AR (c : Ctrl) (st : State) : Host.Outcome State Fault Refusal :=
  .next (st.rawRead c (.stream 1 .m0ar))

/-- Write of S1M0AR (R91). -/
def execWrS1M0AR (c : Ctrl) (v : Word) (st : State) : Host.Outcome State Fault Refusal :=
  .next (st.rawWrite c (.stream 1 .m0ar) v)

/-- Read of S1M1AR (R90). -/
def execRdS1M1AR (c : Ctrl) (st : State) : Host.Outcome State Fault Refusal :=
  .next (st.rawRead c (.stream 1 .m1ar))

/-- Write of S1M1AR (R91). -/
def execWrS1M1AR (c : Ctrl) (v : Word) (st : State) : Host.Outcome State Fault Refusal :=
  .next (st.rawWrite c (.stream 1 .m1ar) v)

/-- Read of S1FCR (R92, F8). -/
def execRdS1FCR (c : Ctrl) (st : State) : Host.Outcome State Fault Refusal :=
  .next (st.rawRead c (.stream 1 .fcr))

/-- Write of S1FCR (R92, F8). -/
def execWrS1FCR (c : Ctrl) (v : Word) (st : State) : Host.Outcome State Fault Refusal :=
  .next (st.rawWrite c (.stream 1 .fcr) v)

/-- Read of S2CR (R80). -/
def execRdS2CR (c : Ctrl) (st : State) : Host.Outcome State Fault Refusal :=
  .next (st.rawRead c (.stream 2 .cr))

/-- Write of S2CR (R81 to R85). -/
def execWrS2CR (c : Ctrl) (v : Word) (st : State) : Host.Outcome State Fault Refusal :=
  .next (st.rawWrite c (.stream 2 .cr) v)

/-- Read of S2NDTR (R86). -/
def execRdS2NDTR (c : Ctrl) (st : State) : Host.Outcome State Fault Refusal :=
  .next (st.rawRead c (.stream 2 .ndtr))

/-- Write of S2NDTR (R87). -/
def execWrS2NDTR (c : Ctrl) (v : Word) (st : State) : Host.Outcome State Fault Refusal :=
  .next (st.rawWrite c (.stream 2 .ndtr) v)

/-- Read of S2PAR (R88). -/
def execRdS2PAR (c : Ctrl) (st : State) : Host.Outcome State Fault Refusal :=
  .next (st.rawRead c (.stream 2 .par))

/-- Write of S2PAR (R89). -/
def execWrS2PAR (c : Ctrl) (v : Word) (st : State) : Host.Outcome State Fault Refusal :=
  .next (st.rawWrite c (.stream 2 .par) v)

/-- Read of S2M0AR (R90). -/
def execRdS2M0AR (c : Ctrl) (st : State) : Host.Outcome State Fault Refusal :=
  .next (st.rawRead c (.stream 2 .m0ar))

/-- Write of S2M0AR (R91). -/
def execWrS2M0AR (c : Ctrl) (v : Word) (st : State) : Host.Outcome State Fault Refusal :=
  .next (st.rawWrite c (.stream 2 .m0ar) v)

/-- Read of S2M1AR (R90). -/
def execRdS2M1AR (c : Ctrl) (st : State) : Host.Outcome State Fault Refusal :=
  .next (st.rawRead c (.stream 2 .m1ar))

/-- Write of S2M1AR (R91). -/
def execWrS2M1AR (c : Ctrl) (v : Word) (st : State) : Host.Outcome State Fault Refusal :=
  .next (st.rawWrite c (.stream 2 .m1ar) v)

/-- Read of S2FCR (R92, F8). -/
def execRdS2FCR (c : Ctrl) (st : State) : Host.Outcome State Fault Refusal :=
  .next (st.rawRead c (.stream 2 .fcr))

/-- Write of S2FCR (R92, F8). -/
def execWrS2FCR (c : Ctrl) (v : Word) (st : State) : Host.Outcome State Fault Refusal :=
  .next (st.rawWrite c (.stream 2 .fcr) v)

/-- Read of S3CR (R80). -/
def execRdS3CR (c : Ctrl) (st : State) : Host.Outcome State Fault Refusal :=
  .next (st.rawRead c (.stream 3 .cr))

/-- Write of S3CR (R81 to R85). -/
def execWrS3CR (c : Ctrl) (v : Word) (st : State) : Host.Outcome State Fault Refusal :=
  .next (st.rawWrite c (.stream 3 .cr) v)

/-- Read of S3NDTR (R86). -/
def execRdS3NDTR (c : Ctrl) (st : State) : Host.Outcome State Fault Refusal :=
  .next (st.rawRead c (.stream 3 .ndtr))

/-- Write of S3NDTR (R87). -/
def execWrS3NDTR (c : Ctrl) (v : Word) (st : State) : Host.Outcome State Fault Refusal :=
  .next (st.rawWrite c (.stream 3 .ndtr) v)

/-- Read of S3PAR (R88). -/
def execRdS3PAR (c : Ctrl) (st : State) : Host.Outcome State Fault Refusal :=
  .next (st.rawRead c (.stream 3 .par))

/-- Write of S3PAR (R89). -/
def execWrS3PAR (c : Ctrl) (v : Word) (st : State) : Host.Outcome State Fault Refusal :=
  .next (st.rawWrite c (.stream 3 .par) v)

/-- Read of S3M0AR (R90). -/
def execRdS3M0AR (c : Ctrl) (st : State) : Host.Outcome State Fault Refusal :=
  .next (st.rawRead c (.stream 3 .m0ar))

/-- Write of S3M0AR (R91). -/
def execWrS3M0AR (c : Ctrl) (v : Word) (st : State) : Host.Outcome State Fault Refusal :=
  .next (st.rawWrite c (.stream 3 .m0ar) v)

/-- Read of S3M1AR (R90). -/
def execRdS3M1AR (c : Ctrl) (st : State) : Host.Outcome State Fault Refusal :=
  .next (st.rawRead c (.stream 3 .m1ar))

/-- Write of S3M1AR (R91). -/
def execWrS3M1AR (c : Ctrl) (v : Word) (st : State) : Host.Outcome State Fault Refusal :=
  .next (st.rawWrite c (.stream 3 .m1ar) v)

/-- Read of S3FCR (R92, F8). -/
def execRdS3FCR (c : Ctrl) (st : State) : Host.Outcome State Fault Refusal :=
  .next (st.rawRead c (.stream 3 .fcr))

/-- Write of S3FCR (R92, F8). -/
def execWrS3FCR (c : Ctrl) (v : Word) (st : State) : Host.Outcome State Fault Refusal :=
  .next (st.rawWrite c (.stream 3 .fcr) v)

/-- Read of S4CR (R80). -/
def execRdS4CR (c : Ctrl) (st : State) : Host.Outcome State Fault Refusal :=
  .next (st.rawRead c (.stream 4 .cr))

/-- Write of S4CR (R81 to R85). -/
def execWrS4CR (c : Ctrl) (v : Word) (st : State) : Host.Outcome State Fault Refusal :=
  .next (st.rawWrite c (.stream 4 .cr) v)

/-- Read of S4NDTR (R86). -/
def execRdS4NDTR (c : Ctrl) (st : State) : Host.Outcome State Fault Refusal :=
  .next (st.rawRead c (.stream 4 .ndtr))

/-- Write of S4NDTR (R87). -/
def execWrS4NDTR (c : Ctrl) (v : Word) (st : State) : Host.Outcome State Fault Refusal :=
  .next (st.rawWrite c (.stream 4 .ndtr) v)

/-- Read of S4PAR (R88). -/
def execRdS4PAR (c : Ctrl) (st : State) : Host.Outcome State Fault Refusal :=
  .next (st.rawRead c (.stream 4 .par))

/-- Write of S4PAR (R89). -/
def execWrS4PAR (c : Ctrl) (v : Word) (st : State) : Host.Outcome State Fault Refusal :=
  .next (st.rawWrite c (.stream 4 .par) v)

/-- Read of S4M0AR (R90). -/
def execRdS4M0AR (c : Ctrl) (st : State) : Host.Outcome State Fault Refusal :=
  .next (st.rawRead c (.stream 4 .m0ar))

/-- Write of S4M0AR (R91). -/
def execWrS4M0AR (c : Ctrl) (v : Word) (st : State) : Host.Outcome State Fault Refusal :=
  .next (st.rawWrite c (.stream 4 .m0ar) v)

/-- Read of S4M1AR (R90). -/
def execRdS4M1AR (c : Ctrl) (st : State) : Host.Outcome State Fault Refusal :=
  .next (st.rawRead c (.stream 4 .m1ar))

/-- Write of S4M1AR (R91). -/
def execWrS4M1AR (c : Ctrl) (v : Word) (st : State) : Host.Outcome State Fault Refusal :=
  .next (st.rawWrite c (.stream 4 .m1ar) v)

/-- Read of S4FCR (R92, F8). -/
def execRdS4FCR (c : Ctrl) (st : State) : Host.Outcome State Fault Refusal :=
  .next (st.rawRead c (.stream 4 .fcr))

/-- Write of S4FCR (R92, F8). -/
def execWrS4FCR (c : Ctrl) (v : Word) (st : State) : Host.Outcome State Fault Refusal :=
  .next (st.rawWrite c (.stream 4 .fcr) v)

/-- Read of S5CR (R80). -/
def execRdS5CR (c : Ctrl) (st : State) : Host.Outcome State Fault Refusal :=
  .next (st.rawRead c (.stream 5 .cr))

/-- Write of S5CR (R81 to R85). -/
def execWrS5CR (c : Ctrl) (v : Word) (st : State) : Host.Outcome State Fault Refusal :=
  .next (st.rawWrite c (.stream 5 .cr) v)

/-- Read of S5NDTR (R86). -/
def execRdS5NDTR (c : Ctrl) (st : State) : Host.Outcome State Fault Refusal :=
  .next (st.rawRead c (.stream 5 .ndtr))

/-- Write of S5NDTR (R87). -/
def execWrS5NDTR (c : Ctrl) (v : Word) (st : State) : Host.Outcome State Fault Refusal :=
  .next (st.rawWrite c (.stream 5 .ndtr) v)

/-- Read of S5PAR (R88). -/
def execRdS5PAR (c : Ctrl) (st : State) : Host.Outcome State Fault Refusal :=
  .next (st.rawRead c (.stream 5 .par))

/-- Write of S5PAR (R89). -/
def execWrS5PAR (c : Ctrl) (v : Word) (st : State) : Host.Outcome State Fault Refusal :=
  .next (st.rawWrite c (.stream 5 .par) v)

/-- Read of S5M0AR (R90). -/
def execRdS5M0AR (c : Ctrl) (st : State) : Host.Outcome State Fault Refusal :=
  .next (st.rawRead c (.stream 5 .m0ar))

/-- Write of S5M0AR (R91). -/
def execWrS5M0AR (c : Ctrl) (v : Word) (st : State) : Host.Outcome State Fault Refusal :=
  .next (st.rawWrite c (.stream 5 .m0ar) v)

/-- Read of S5M1AR (R90). -/
def execRdS5M1AR (c : Ctrl) (st : State) : Host.Outcome State Fault Refusal :=
  .next (st.rawRead c (.stream 5 .m1ar))

/-- Write of S5M1AR (R91). -/
def execWrS5M1AR (c : Ctrl) (v : Word) (st : State) : Host.Outcome State Fault Refusal :=
  .next (st.rawWrite c (.stream 5 .m1ar) v)

/-- Read of S5FCR (R92, F8). -/
def execRdS5FCR (c : Ctrl) (st : State) : Host.Outcome State Fault Refusal :=
  .next (st.rawRead c (.stream 5 .fcr))

/-- Write of S5FCR (R92, F8). -/
def execWrS5FCR (c : Ctrl) (v : Word) (st : State) : Host.Outcome State Fault Refusal :=
  .next (st.rawWrite c (.stream 5 .fcr) v)

/-- Read of S6CR (R80). -/
def execRdS6CR (c : Ctrl) (st : State) : Host.Outcome State Fault Refusal :=
  .next (st.rawRead c (.stream 6 .cr))

/-- Write of S6CR (R81 to R85). -/
def execWrS6CR (c : Ctrl) (v : Word) (st : State) : Host.Outcome State Fault Refusal :=
  .next (st.rawWrite c (.stream 6 .cr) v)

/-- Read of S6NDTR (R86). -/
def execRdS6NDTR (c : Ctrl) (st : State) : Host.Outcome State Fault Refusal :=
  .next (st.rawRead c (.stream 6 .ndtr))

/-- Write of S6NDTR (R87). -/
def execWrS6NDTR (c : Ctrl) (v : Word) (st : State) : Host.Outcome State Fault Refusal :=
  .next (st.rawWrite c (.stream 6 .ndtr) v)

/-- Read of S6PAR (R88). -/
def execRdS6PAR (c : Ctrl) (st : State) : Host.Outcome State Fault Refusal :=
  .next (st.rawRead c (.stream 6 .par))

/-- Write of S6PAR (R89). -/
def execWrS6PAR (c : Ctrl) (v : Word) (st : State) : Host.Outcome State Fault Refusal :=
  .next (st.rawWrite c (.stream 6 .par) v)

/-- Read of S6M0AR (R90). -/
def execRdS6M0AR (c : Ctrl) (st : State) : Host.Outcome State Fault Refusal :=
  .next (st.rawRead c (.stream 6 .m0ar))

/-- Write of S6M0AR (R91). -/
def execWrS6M0AR (c : Ctrl) (v : Word) (st : State) : Host.Outcome State Fault Refusal :=
  .next (st.rawWrite c (.stream 6 .m0ar) v)

/-- Read of S6M1AR (R90). -/
def execRdS6M1AR (c : Ctrl) (st : State) : Host.Outcome State Fault Refusal :=
  .next (st.rawRead c (.stream 6 .m1ar))

/-- Write of S6M1AR (R91). -/
def execWrS6M1AR (c : Ctrl) (v : Word) (st : State) : Host.Outcome State Fault Refusal :=
  .next (st.rawWrite c (.stream 6 .m1ar) v)

/-- Read of S6FCR (R92, F8). -/
def execRdS6FCR (c : Ctrl) (st : State) : Host.Outcome State Fault Refusal :=
  .next (st.rawRead c (.stream 6 .fcr))

/-- Write of S6FCR (R92, F8). -/
def execWrS6FCR (c : Ctrl) (v : Word) (st : State) : Host.Outcome State Fault Refusal :=
  .next (st.rawWrite c (.stream 6 .fcr) v)

/-- Read of S7CR (R80). -/
def execRdS7CR (c : Ctrl) (st : State) : Host.Outcome State Fault Refusal :=
  .next (st.rawRead c (.stream 7 .cr))

/-- Write of S7CR (R81 to R85). -/
def execWrS7CR (c : Ctrl) (v : Word) (st : State) : Host.Outcome State Fault Refusal :=
  .next (st.rawWrite c (.stream 7 .cr) v)

/-- Read of S7NDTR (R86). -/
def execRdS7NDTR (c : Ctrl) (st : State) : Host.Outcome State Fault Refusal :=
  .next (st.rawRead c (.stream 7 .ndtr))

/-- Write of S7NDTR (R87). -/
def execWrS7NDTR (c : Ctrl) (v : Word) (st : State) : Host.Outcome State Fault Refusal :=
  .next (st.rawWrite c (.stream 7 .ndtr) v)

/-- Read of S7PAR (R88). -/
def execRdS7PAR (c : Ctrl) (st : State) : Host.Outcome State Fault Refusal :=
  .next (st.rawRead c (.stream 7 .par))

/-- Write of S7PAR (R89). -/
def execWrS7PAR (c : Ctrl) (v : Word) (st : State) : Host.Outcome State Fault Refusal :=
  .next (st.rawWrite c (.stream 7 .par) v)

/-- Read of S7M0AR (R90). -/
def execRdS7M0AR (c : Ctrl) (st : State) : Host.Outcome State Fault Refusal :=
  .next (st.rawRead c (.stream 7 .m0ar))

/-- Write of S7M0AR (R91). -/
def execWrS7M0AR (c : Ctrl) (v : Word) (st : State) : Host.Outcome State Fault Refusal :=
  .next (st.rawWrite c (.stream 7 .m0ar) v)

/-- Read of S7M1AR (R90). -/
def execRdS7M1AR (c : Ctrl) (st : State) : Host.Outcome State Fault Refusal :=
  .next (st.rawRead c (.stream 7 .m1ar))

/-- Write of S7M1AR (R91). -/
def execWrS7M1AR (c : Ctrl) (v : Word) (st : State) : Host.Outcome State Fault Refusal :=
  .next (st.rawWrite c (.stream 7 .m1ar) v)

/-- Read of S7FCR (R92, F8). -/
def execRdS7FCR (c : Ctrl) (st : State) : Host.Outcome State Fault Refusal :=
  .next (st.rawRead c (.stream 7 .fcr))

/-- Write of S7FCR (R92, F8). -/
def execWrS7FCR (c : Ctrl) (v : Word) (st : State) : Host.Outcome State Fault Refusal :=
  .next (st.rawWrite c (.stream 7 .fcr) v)

end Sys2Proof.Machine
end

