-- ==== Sys2Proof/Machine/Dispatch.lean ====
section
/-! DEFINITION. The dispatch of an instruction to its meaning. -/

namespace Sys2Proof.Machine

def exec (i : Instr) (s : State) : Host.Outcome State Fault Refusal :=
  match i with
  | .rdLISR c => Sys2Proof.Machine.execRdLISR c s
  | .wrLISR c v => Sys2Proof.Machine.execWrLISR c v s
  | .rdHISR c => Sys2Proof.Machine.execRdHISR c s
  | .wrHISR c v => Sys2Proof.Machine.execWrHISR c v s
  | .rdLIFCR c => Sys2Proof.Machine.execRdLIFCR c s
  | .wrLIFCR c v => Sys2Proof.Machine.execWrLIFCR c v s
  | .rdHIFCR c => Sys2Proof.Machine.execRdHIFCR c s
  | .wrHIFCR c v => Sys2Proof.Machine.execWrHIFCR c v s
  | .rdS0CR c => Sys2Proof.Machine.execRdS0CR c s
  | .wrS0CR c v => Sys2Proof.Machine.execWrS0CR c v s
  | .rdS0NDTR c => Sys2Proof.Machine.execRdS0NDTR c s
  | .wrS0NDTR c v => Sys2Proof.Machine.execWrS0NDTR c v s
  | .rdS0PAR c => Sys2Proof.Machine.execRdS0PAR c s
  | .wrS0PAR c v => Sys2Proof.Machine.execWrS0PAR c v s
  | .rdS0M0AR c => Sys2Proof.Machine.execRdS0M0AR c s
  | .wrS0M0AR c v => Sys2Proof.Machine.execWrS0M0AR c v s
  | .rdS0M1AR c => Sys2Proof.Machine.execRdS0M1AR c s
  | .wrS0M1AR c v => Sys2Proof.Machine.execWrS0M1AR c v s
  | .rdS0FCR c => Sys2Proof.Machine.execRdS0FCR c s
  | .wrS0FCR c v => Sys2Proof.Machine.execWrS0FCR c v s
  | .rdS1CR c => Sys2Proof.Machine.execRdS1CR c s
  | .wrS1CR c v => Sys2Proof.Machine.execWrS1CR c v s
  | .rdS1NDTR c => Sys2Proof.Machine.execRdS1NDTR c s
  | .wrS1NDTR c v => Sys2Proof.Machine.execWrS1NDTR c v s
  | .rdS1PAR c => Sys2Proof.Machine.execRdS1PAR c s
  | .wrS1PAR c v => Sys2Proof.Machine.execWrS1PAR c v s
  | .rdS1M0AR c => Sys2Proof.Machine.execRdS1M0AR c s
  | .wrS1M0AR c v => Sys2Proof.Machine.execWrS1M0AR c v s
  | .rdS1M1AR c => Sys2Proof.Machine.execRdS1M1AR c s
  | .wrS1M1AR c v => Sys2Proof.Machine.execWrS1M1AR c v s
  | .rdS1FCR c => Sys2Proof.Machine.execRdS1FCR c s
  | .wrS1FCR c v => Sys2Proof.Machine.execWrS1FCR c v s
  | .rdS2CR c => Sys2Proof.Machine.execRdS2CR c s
  | .wrS2CR c v => Sys2Proof.Machine.execWrS2CR c v s
  | .rdS2NDTR c => Sys2Proof.Machine.execRdS2NDTR c s
  | .wrS2NDTR c v => Sys2Proof.Machine.execWrS2NDTR c v s
  | .rdS2PAR c => Sys2Proof.Machine.execRdS2PAR c s
  | .wrS2PAR c v => Sys2Proof.Machine.execWrS2PAR c v s
  | .rdS2M0AR c => Sys2Proof.Machine.execRdS2M0AR c s
  | .wrS2M0AR c v => Sys2Proof.Machine.execWrS2M0AR c v s
  | .rdS2M1AR c => Sys2Proof.Machine.execRdS2M1AR c s
  | .wrS2M1AR c v => Sys2Proof.Machine.execWrS2M1AR c v s
  | .rdS2FCR c => Sys2Proof.Machine.execRdS2FCR c s
  | .wrS2FCR c v => Sys2Proof.Machine.execWrS2FCR c v s
  | .rdS3CR c => Sys2Proof.Machine.execRdS3CR c s
  | .wrS3CR c v => Sys2Proof.Machine.execWrS3CR c v s
  | .rdS3NDTR c => Sys2Proof.Machine.execRdS3NDTR c s
  | .wrS3NDTR c v => Sys2Proof.Machine.execWrS3NDTR c v s
  | .rdS3PAR c => Sys2Proof.Machine.execRdS3PAR c s
  | .wrS3PAR c v => Sys2Proof.Machine.execWrS3PAR c v s
  | .rdS3M0AR c => Sys2Proof.Machine.execRdS3M0AR c s
  | .wrS3M0AR c v => Sys2Proof.Machine.execWrS3M0AR c v s
  | .rdS3M1AR c => Sys2Proof.Machine.execRdS3M1AR c s
  | .wrS3M1AR c v => Sys2Proof.Machine.execWrS3M1AR c v s
  | .rdS3FCR c => Sys2Proof.Machine.execRdS3FCR c s
  | .wrS3FCR c v => Sys2Proof.Machine.execWrS3FCR c v s
  | .rdS4CR c => Sys2Proof.Machine.execRdS4CR c s
  | .wrS4CR c v => Sys2Proof.Machine.execWrS4CR c v s
  | .rdS4NDTR c => Sys2Proof.Machine.execRdS4NDTR c s
  | .wrS4NDTR c v => Sys2Proof.Machine.execWrS4NDTR c v s
  | .rdS4PAR c => Sys2Proof.Machine.execRdS4PAR c s
  | .wrS4PAR c v => Sys2Proof.Machine.execWrS4PAR c v s
  | .rdS4M0AR c => Sys2Proof.Machine.execRdS4M0AR c s
  | .wrS4M0AR c v => Sys2Proof.Machine.execWrS4M0AR c v s
  | .rdS4M1AR c => Sys2Proof.Machine.execRdS4M1AR c s
  | .wrS4M1AR c v => Sys2Proof.Machine.execWrS4M1AR c v s
  | .rdS4FCR c => Sys2Proof.Machine.execRdS4FCR c s
  | .wrS4FCR c v => Sys2Proof.Machine.execWrS4FCR c v s
  | .rdS5CR c => Sys2Proof.Machine.execRdS5CR c s
  | .wrS5CR c v => Sys2Proof.Machine.execWrS5CR c v s
  | .rdS5NDTR c => Sys2Proof.Machine.execRdS5NDTR c s
  | .wrS5NDTR c v => Sys2Proof.Machine.execWrS5NDTR c v s
  | .rdS5PAR c => Sys2Proof.Machine.execRdS5PAR c s
  | .wrS5PAR c v => Sys2Proof.Machine.execWrS5PAR c v s
  | .rdS5M0AR c => Sys2Proof.Machine.execRdS5M0AR c s
  | .wrS5M0AR c v => Sys2Proof.Machine.execWrS5M0AR c v s
  | .rdS5M1AR c => Sys2Proof.Machine.execRdS5M1AR c s
  | .wrS5M1AR c v => Sys2Proof.Machine.execWrS5M1AR c v s
  | .rdS5FCR c => Sys2Proof.Machine.execRdS5FCR c s
  | .wrS5FCR c v => Sys2Proof.Machine.execWrS5FCR c v s
  | .rdS6CR c => Sys2Proof.Machine.execRdS6CR c s
  | .wrS6CR c v => Sys2Proof.Machine.execWrS6CR c v s
  | .rdS6NDTR c => Sys2Proof.Machine.execRdS6NDTR c s
  | .wrS6NDTR c v => Sys2Proof.Machine.execWrS6NDTR c v s
  | .rdS6PAR c => Sys2Proof.Machine.execRdS6PAR c s
  | .wrS6PAR c v => Sys2Proof.Machine.execWrS6PAR c v s
  | .rdS6M0AR c => Sys2Proof.Machine.execRdS6M0AR c s
  | .wrS6M0AR c v => Sys2Proof.Machine.execWrS6M0AR c v s
  | .rdS6M1AR c => Sys2Proof.Machine.execRdS6M1AR c s
  | .wrS6M1AR c v => Sys2Proof.Machine.execWrS6M1AR c v s
  | .rdS6FCR c => Sys2Proof.Machine.execRdS6FCR c s
  | .wrS6FCR c v => Sys2Proof.Machine.execWrS6FCR c v s
  | .rdS7CR c => Sys2Proof.Machine.execRdS7CR c s
  | .wrS7CR c v => Sys2Proof.Machine.execWrS7CR c v s
  | .rdS7NDTR c => Sys2Proof.Machine.execRdS7NDTR c s
  | .wrS7NDTR c v => Sys2Proof.Machine.execWrS7NDTR c v s
  | .rdS7PAR c => Sys2Proof.Machine.execRdS7PAR c s
  | .wrS7PAR c v => Sys2Proof.Machine.execWrS7PAR c v s
  | .rdS7M0AR c => Sys2Proof.Machine.execRdS7M0AR c s
  | .wrS7M0AR c v => Sys2Proof.Machine.execWrS7M0AR c v s
  | .rdS7M1AR c => Sys2Proof.Machine.execRdS7M1AR c s
  | .wrS7M1AR c v => Sys2Proof.Machine.execWrS7M1AR c v s
  | .rdS7FCR c => Sys2Proof.Machine.execRdS7FCR c s
  | .wrS7FCR c v => Sys2Proof.Machine.execWrS7FCR c v s
  | .streamListen c x e => Sys2Proof.Machine.execStreamListen c x e s
  | .streamUnlisten c x e => Sys2Proof.Machine.execStreamUnlisten c x e s
  | .streamIsComplete c x => Sys2Proof.Machine.execStreamIsComplete c x s
  | .streamHasError c x => Sys2Proof.Machine.execStreamHasError c x s
  | .streamReset c x => Sys2Proof.Machine.execStreamReset c x s
  | .sbStart c x chan circ src tgt => Sys2Proof.Machine.execSbStart c x chan circ src tgt s
  | .sbIsComplete c x => Sys2Proof.Machine.execSbIsComplete c x s
  | .sbHasError c x => Sys2Proof.Machine.execSbHasError c x s
  | .sbWait c x => Sys2Proof.Machine.execSbWait c x s
  | .sbReset c x => Sys2Proof.Machine.execSbReset c x s
  | .dbStart c x chan buf0 buf1 tgt => Sys2Proof.Machine.execDbStart c x chan buf0 buf1 tgt s
  | .dbPoll c x => Sys2Proof.Machine.execDbPoll c x s
  | .dbReset c x => Sys2Proof.Machine.execDbReset c x s
  | .evElement c x d => Sys2Proof.Machine.execEvElement c x d s
  | .evBusError c x d => Sys2Proof.Machine.execEvBusError c x d s
  | .evArbError c x => Sys2Proof.Machine.execEvArbError c x s
  | .evDrainDone c x => Sys2Proof.Machine.execEvDrainDone c x s

end Sys2Proof.Machine
end

