-- ==== Sys2Proof/Machine/Fetch.lean ====
section
/-! DEFINITION. What the machine does next: the head of the agenda, decoded (log 1). -/

namespace Sys2Proof.Machine

/-- What the agenda's head asks of the step: an instruction to run on a state whose agenda has moved on, or an outcome
already decided. -/
inductive Fetched where
  | run (i : Instr) (st : State)
  | done (o : Host.Outcome State Fault Refusal)

/-- The host's turn as an outcome: one host step, or no step. -/
def State.turnOutcome (st : State) : Host.Outcome State Fault Refusal :=
  match st.hostTurn with
  | some st' => .next st'
  | none => .fault .noStep

/-- A host access word, decoded (R41, R62). -/
def fetchAccess (st : State) (aw : BitVec 12) (size : AccessSize) (data : Word) : Fetched :=
  match decodeAw aw size data with
  | .ok i => .run i st
  | .error e =>
    match rejectFault e with
    | some f => .done (.next (st.badAccess aw data f))
    | none => .done (.fault .noStep)

/-- A request word, decoded: F17 where it is none (R71). -/
def fetchRequest (st : State) (rq : BitVec 16) (ops : OpRecord) : Fetched :=
  match decodeRq rq ops with
  | .ok i => .run i st
  | .error e =>
    match rejectFault e with
    | some f => .done (.next (st.fail f))
    | none => .done (.fault .noStep)

/-- An event word, decoded: no step where it is none (R72). -/
def fetchEvent (st : State) (ev : BitVec 8) (d : Draw) : Fetched :=
  match decodeEv ev d with
  | .ok i => .run i st
  | .error _ => .done (.fault .noSuchEvent)

/-- A callback's return. -/
def fetchReturn (st : State) (nb : Buf) : Fetched :=
  match st.returnCallback nb with
  | some st' => .done (.next st')
  | none => .done (.fault .noCallback)

/-- Something new for the host: taken off the agenda when the host is ready for it; otherwise the host goes on with
the request it is in, and the entry waits (R14). -/
def hostEntry (st : State) (rest : List Input) (k : State → Fetched) : Fetched :=
  if st.hostReady then k { st with inputs := rest } else .done st.turnOutcome

/-- The next step. An event is the engine's; a turn is the host's; anything else is new for the host. An empty agenda
lets the host go on with the request it is in. -/
def State.fetch (st : State) : Fetched :=
  match st.inputs with
  | [] => .done st.turnOutcome
  | .event ev d :: rest => fetchEvent { st with inputs := rest } ev d
  | .turn :: rest => .done ({ st with inputs := rest }).turnOutcome
  | .access aw size data :: rest => hostEntry st rest fun st' => fetchAccess st' aw size data
  | .request rq ops :: rest => hostEntry st rest fun st' => fetchRequest st' rq ops
  | .memRead a size :: rest => hostEntry st rest fun st' => .done (.next (st'.hostRead a size))
  | .memWrite a size v :: rest => hostEntry st rest fun st' => .done (.next (st'.hostWrite a size v))
  | .callbackReturn nb :: rest => hostEntry st rest fun st' => fetchReturn st' nb

/-- The machine with an agenda entry put where the next step takes it: at the agenda's head, and, for an entry the host
must be ready for, with no request of the host in progress. -/
def State.place (st : State) (i : Input) : State :=
  match i with
  | .event _ _ => { st with inputs := i :: st.inputs }
  | _ => { st with inputs := i :: st.inputs, stack := if st.hostReady then st.stack else [] }

end Sys2Proof.Machine
end

