-- ==== Sys2Proof/Machine/Step.lean ====
section
/-! DEFINITION. One step of the machine. -/

namespace Sys2Proof.Machine

/-- One atomic step of the host or of one engine (spec/20_memory.md R52): the agenda's head, decoded and run. -/
def step (st : State) : Host.Outcome State Fault Refusal :=
  match st.fetch with
  | .run i st' => exec i st'
  | .done o => o

/-- The machine whose next step runs the opcode table's word `w` (log 12). A width no row has leaves it as it is. -/
def State.withFetchWord (s : State) (nbits w : Nat) : State :=
  match tableInput nbits w with
  | some i => s.place i
  | none => s

end Sys2Proof.Machine
end

