-- ==== Sys2Proof/Safety.lean ====
section
/-! DEFINITION. What the statements speak of: the machine's invariant, runs that end well, and the state that a register
write, a release or a status read leaves behind, written out. -/

namespace Sys2Proof.Machine

/-! ## The invariant -/

/-- While EN = 1 the counts and the configuration are those R94 lists: `1 <= NDTR <= reload`, DIR = 01, MSIZE = PSIZE
with a width, no feature outside scope, and DBM = 1 only with CIRC = 1. -/
def Stream.runOk (y : Stream) : Prop :=
  crEn y.cr = true → y.countsOk = true ∧ cfgUnmodelled y.cr = false

/-- A pending disable belongs to an enabled stream in drain mode (R29, R85). -/
def Stream.drainOk (p : Params) (y : Stream) : Prop :=
  y.disabling = true → crEn y.cr = true ∧ p.disableMode = .drain

/-- A stream with TEIF = 1 is not enabled, so errors do not nest (R140). -/
def Stream.errorOk (y : Stream) : Prop := y.teif = true → crEn y.cr = false

/-- The reserved bits of SxCR hold 0 (R63). -/
def Stream.reservedOk (y : Stream) : Prop := y.cr &&& 0xF0100000 = 0

/-- The two buffers of a double transfer have equal lengths and widths (R34). -/
def Fsm.pairOk (f : Fsm) : Prop :=
  ∀ r, f = .double r → r.buf0.len = r.buf1.len ∧ r.buf0.width = r.buf1.width

/-- The invariant of one stream. -/
structure Stream.Inv (p : Params) (y : Stream) : Prop where
  run : y.runOk
  drain : y.drainOk p
  error : y.errorOk
  reserved : y.reservedOk
  pair : y.fsm.pairOk

/-- The invariant of the machine: every stream's, and the canonical form of memory. -/
structure State.Inv (s : State) : Prop where
  streams : ∀ c x, (s.stream c x).Inv s.params
  mem : memWf s.mem = true

/-! ## Runs -/

/-- A run ends well: no fault, every request returned, every stream idle and disabled (R148). -/
def State.endsWell (s : State) : Prop :=
  s.faults = [] ∧ s.stack = [] ∧ ∀ c x, (s.stream c x).fsm = .idle ∧ crEn (s.stream c x).cr = false

/-- The agenda's head is `i`, and the machine takes it now: it is an event, or the host is ready for it. -/
def State.takes (s : State) (i : Input) (rest : List Input) : Prop :=
  s.inputs = i :: rest ∧ ((∃ ev d, i = .event ev d) ∨ s.hostReady = true)

/-! ## What a register write leaves -/

/-- One access in the trace. -/
def accessOf (w : Bool) (c : Ctrl) (r : Reg) (v : Word) : BusAccess := { aw := awWord w c r, data := v }

/-- The machine after a raw register write that was taken: the stream is `y`, the write is in the trace. -/
def State.wrote (s : State) (c : Ctrl) (x : StreamIx) (q : SReg) (v : Word) (y : Stream) : State :=
  { s.setStream c x y with trace := s.trace ++ [accessOf true c (.stream x q) v], ret := .done }

/-- The machine after a raw register write that raised `f`: the stream is `y`, the write is in the trace, the fault is
marked. -/
def State.wroteFaulting (s : State) (c : Ctrl) (x : StreamIx) (q : SReg) (v : Word) (y : Stream) (f : ModelFault) :
    State :=
  { s.setStream c x y with
    trace := s.trace ++ [accessOf true c (.stream x q) v]
    faults := insertFault f s.faults
    ret := .faulted f }

/-- The machine after a raw register read that gave `v`. -/
def State.gave (s : State) (c : Ctrl) (r : Reg) (v : Word) : State :=
  { s with trace := s.trace ++ [accessOf false c r v], ret := .word v }

/-- The machine after a request that ended at `f` before any register access (R106, R134). -/
def State.refusedBy (s : State) (f : ModelFault) : State :=
  { s with faults := insertFault f s.faults, ret := .faulted f }

/-! ## What a release leaves -/

/-- A stream after RESET_SEQ (R111): disabled, at once or pending under `DISABLE_MODE = drain` (R85), TCIF and TEIF
cleared, everything else kept. -/
def Stream.stopped (p : Params) (y : Stream) : Stream :=
  if crEn y.cr = true ∧ p.disableMode = .drain then { y with disabling := true, tcif := false, teif := false }
  else { y with cr := y.cr &&& ~~~(0x1 : Word), tcif := false, teif := false }

/-- The three accesses of RESET_SEQ on stream (c, x) (R111). -/
def State.resetTrace (s : State) (c : Ctrl) (x : StreamIx) : List BusAccess :=
  [accessOf false c (.stream x .cr) (s.stream c x).crRead,
    accessOf true c (.stream x .cr) ((s.stream c x).cr &&& ~~~(0x1 : Word)),
    accessOf true c (.ifcr (groupOf x)) (tcBit x ||| teBit x)]

/-- The read of stream (c, x)'s status register, as a trace entry. -/
def State.isrAccess (s : State) (c : Ctrl) (x : StreamIx) : BusAccess :=
  accessOf false c (.isr (groupOf x)) (s.isrRead c x)

/-! ## Borrowed memory -/

/-- Byte address `a` lies in a buffer's span (R57). -/
def inSpan (b : Buf) (a : Nat) : Prop := b.addr.toNat ≤ a ∧ a < b.addr.toNat + b.len * b.width

/-- Byte address `a` lies in a buffer that a live transfer has borrowed and whose `replace` callback is not running
(R57). -/
def State.borrows (s : State) (a : Nat) : Prop :=
  ∃ c x,
    (∃ r, (s.stream c x).fsm = .single r ∧ inSpan r.src a) ∨
    (∃ r k, (s.stream c x).fsm = .double r ∧ r.inReplace ≠ some k ∧ inSpan (r.buf k) a)

end Sys2Proof.Machine
end

