-- ==== Sys2Proof/Certificates/Slice0/Obligations.lean ====
section
/-! DEFINITION. The statements for the provers. -/

open Sys2Proof Sys2Proof.Machine

/-! ## Encoding -/

/-- Decoding the encoding of a well-formed instruction gives it back, every operand at every value (R59 to R72). -/
def Obligations.DecodeEncodeAgree : Prop :=
  ∀ i : Instr, i.wf = true → decode (encode i) = .ok i

/-- Whatever decodes is well-formed. -/
def Obligations.DecodedIsWellFormed : Prop :=
  ∀ (inp : Input) (i : Instr), decode inp = .ok i → i.wf = true

/-- Words of spec/30_encoding.md and spec/95_test_vectors.md decode to the instructions they stand for. -/
def Obligations.SpecWordsDecode : Prop :=
  (∀ v, decode (.access 0xCB8 .word v) = .ok (.wrS7CR .dma2 v)) ∧
  (∀ v, decode (.access 0xC0C .word v) = .ok (.wrHIFCR .dma2 v)) ∧
  decode (.access 0x004 .word 0) = .ok (.rdHISR .dma1) ∧
  decode (.access 0x024 .word 0) = .ok (.rdS0FCR .dma1) ∧
  (∀ v, decode (.access 0x880 .word v) = .ok (.wrS4M1AR .dma1 v)) ∧
  (∀ ops, decode (.request 0x6F04 ops) = .ok (.sbStart .dma2 7 4 false ops.b0 ops.tgt)) ∧
  (∀ ops, decode (.request 0x600A ops) = .ok (.sbStart .dma1 0 2 true ops.b0 ops.tgt)) ∧
  (∀ ops, decode (.request 0xB407 ops) = .ok (.dbStart .dma1 4 7 ops.b0 ops.b1 ops.tgt)) ∧
  (∀ ops, decode (.request 0x1001 ops) = .ok (.streamListen .dma1 0 .transferComplete)) ∧
  (∀ d, decode (.event 0x1F d) = .ok (.evElement .dma2 7 d)) ∧
  (∀ d, decode (.event 0x21 d) = .ok (.evBusError .dma1 1 d))

/-! ## The step -/

/-- A step runs the decoded instruction: when the agenda's head decodes to `i` and the machine takes it, the step is
`exec` of `i` on the state with the agenda moved on. That an agenda's head says what the next step is, is the
model's own choice and no rule's (DESIGN CHOICE, log 1). -/
def Obligations.StepRunsDecodedInstruction : Prop :=
  ∀ (s : State) (inp : Input) (rest : List Input) (i : Instr),
    s.takes inp rest → decode inp = .ok i → step s = exec i { s with inputs := rest }

/-- A host turn, an empty agenda, or a host entry while the host is inside a request, runs one host step of the
innermost request; a host entry stays on the agenda. That these three let the request go on is the model's own
choice and no rule's (DESIGN CHOICE, log 1). -/
def Obligations.StepContinuesRequest : Prop :=
  ∀ (s t : State),
    (∀ rest, s.inputs = .turn :: rest → ({ s with inputs := rest } : State).hostTurn = some t → step s = .next t) ∧
    (s.inputs = [] → s.hostTurn = some t → step s = .next t) ∧
    (∀ inp rest, s.inputs = inp :: rest → (∀ ev d, inp ≠ .event ev d) → inp ≠ .turn → s.hostReady = false →
      s.hostTurn = some t → step s = .next t)

/-- A byte or halfword access, or one not aligned on 4, is F5; an aligned word access to an offset from 0x0D0 on is F4.
No register, flag, byte or request changes; a read gives 0 (R41, R62). The access is appended to the trace, with the
data written or 0 for a read (the model's reading, log 7), and a write hands back the fault's name (the model's, log
16). -/
def Obligations.BadAccessWordFaults : Prop :=
  ∀ (s : State) (rest : List Input) (aw : BitVec 12) (size : AccessSize) (data : Word) (w : Bool) (f : ModelFault),
    s.takes (.access aw size data) rest → w = aw.getLsbD 11 →
    ((f = .badAccessWidth ∧ (size ≠ .word ∨ aw.toNat % 4 ≠ 0)) ∨
      (f = .unmapped ∧ size = .word ∧ aw.toNat % 4 = 0 ∧ 0x0D0 ≤ aw.toNat % 1024)) →
    step s = .next { s with
      inputs := rest
      faults := insertFault f s.faults
      trace := s.trace ++ [{ aw := aw, data := if w = true then data else 0 }]
      ret := if w = true then .faulted f else .word 0 }

/-- A request word with a reserved code, or with a 1 in an argument bit its layout marks 0, is F17 and nothing more. -/
def Obligations.BadRequestWordFaults : Prop :=
  ∀ (s : State) (rest : List Input) (rq : BitVec 16) (ops : OpRecord),
    s.takes (.request rq ops) rest →
    ((rq.toNat / 4096 = 0 ∨ 14 ≤ rq.toNat / 4096) ∨
      (rq.toNat / 4096 ∈ [1, 2] ∧ 2 ≤ rq.toNat % 256) ∨
      (rq.toNat / 4096 ∈ [3, 4, 5, 7, 8, 9, 10, 12, 13] ∧ rq.toNat % 256 ≠ 0) ∨
      (rq.toNat / 4096 = 6 ∧ 16 ≤ rq.toNat % 256) ∨
      (rq.toNat / 4096 = 11 ∧ 8 ≤ rq.toNat % 256)) →
    step s = .next (({ s with inputs := rest } : State).refusedBy .badRequest)

/-- An event code other than 1..4 is no step (R72; that the run stops there by name is the model's, log 9); each of the
four codes runs its event. -/
def Obligations.EventWordsDecode : Prop :=
  ∀ (s : State) (rest : List Input) (ev : BitVec 8) (d : Draw),
    s.inputs = .event ev d :: rest →
    (ev.toNat / 16 = 0 ∨ 5 ≤ ev.toNat / 16 → step s = .fault .noSuchEvent) ∧
    (∀ c x, ev = evWord 1 c x → step s = exec (.evElement c x d) { s with inputs := rest }) ∧
    (∀ c x, ev = evWord 2 c x → step s = exec (.evBusError c x d) { s with inputs := rest }) ∧
    (∀ c x, ev = evWord 3 c x → step s = exec (.evArbError c x) { s with inputs := rest }) ∧
    (∀ c x, ev = evWord 4 c x → step s = exec (.evDrainDone c x) { s with inputs := rest })

/-! ## Status and clear registers -/

/-- A read of LISR or HISR gives TEIF, HTIF and TCIF of its group's four streams at their bits and 0 everywhere else,
and changes nothing (R76). -/
def Obligations.StatusReadShowsFlags : Prop :=
  ∀ (s : State) (c : Ctrl) (g : Group), ∃ v : Word,
    exec (rdInstr c (.isr g)) s = .next (s.gave c (.isr g) v) ∧
    (∀ x, groupOf x = g →
      v.getLsbD (flagBase (x.val % 4) + 3) = (s.stream c x).teif ∧
      v.getLsbD (flagBase (x.val % 4) + 4) = (s.stream c x).htif ∧
      v.getLsbD (flagBase (x.val % 4) + 5) = (s.stream c x).tcif) ∧
    v &&& ~~~(0x0E380E38 : Word) = 0

/-- A write of LISR or HISR is F6 and a read of LIFCR or HIFCR is F7, whatever the value; no register, flag or byte
changes. The access stands in the ghost trace (R77, R78, R30). -/
def Obligations.StatusWriteAndClearReadFault : Prop :=
  ∀ (s : State) (c : Ctrl) (g : Group),
    (∀ v, exec (wrInstr c (.isr g) v) s = .next { s with
      trace := s.trace ++ [accessOf true c (.isr g) v]
      faults := insertFault .roWrite s.faults
      ret := .faulted .roWrite }) ∧
    exec (rdInstr c (.ifcr g)) s = .next { s with
      trace := s.trace ++ [accessOf false c (.ifcr g) 0]
      faults := insertFault .woRead s.faults
      ret := .word 0 }

/-- A write of LIFCR or HIFCR clears exactly the flags whose bits are 1, of the group's four streams, and changes
nothing else; a 1 in a reserved bit is F3 and clears nothing (R79). -/
def Obligations.ClearWriteClearsOnes : Prop :=
  ∀ (s : State) (c : Ctrl) (g : Group) (v : Word),
    (v &&& ~~~(0x0F7D0F7D : Word) ≠ 0 →
      exec (wrInstr c (.ifcr g) v) s = .next { s with
        trace := s.trace ++ [accessOf true c (.ifcr g) v]
        faults := insertFault .reservedBit s.faults
        ret := .faulted .reservedBit }) ∧
    (v &&& ~~~(0x0F7D0F7D : Word) = 0 →
      ∃ t, exec (wrInstr c (.ifcr g) v) s = .next t ∧
        t = { s with streams := t.streams, trace := s.trace ++ [accessOf true c (.ifcr g) v], ret := .done } ∧
        ∀ c' x, t.stream c' x =
          if c' = c ∧ groupOf x = g then
            { s.stream c' x with
              teif := (s.stream c' x).teif && !v.getLsbD (flagBase (x.val % 4) + 3)
              htif := (s.stream c' x).htif && !v.getLsbD (flagBase (x.val % 4) + 4)
              tcif := (s.stream c' x).tcif && !v.getLsbD (flagBase (x.val % 4) + 5) }
          else s.stream c' x)

/-! ## Stream registers -/

/-- A read of SxCR, outside the stream's own `replace` callback, gives the control register with reserved bits 0 and
with bit 0 reading `active` (R80). -/
def Obligations.ControlReadShowsActive : Prop :=
  ∀ (s : State) (c : Ctrl) (x : StreamIx), (s.stream c x).fsm.replacing = false →
    ∃ v : Word, exec (rdInstr c (.stream x .cr)) s = .next (s.gave c (.stream x .cr) v) ∧
      v &&& 0x0FEFFFFE = (s.stream c x).cr &&& 0x0FEFFFFE ∧
      v &&& 0xF0100000 = 0 ∧
      v.getLsbD 0 = ((s.stream c x).cr.getLsbD 0 || (s.stream c x).disabling)

/-- A write of SxCR to a stream that is not active, outside its own `replace` callback: F3 for a reserved bit; a
configuration write; or an enable, with its checks in the order F9, F10, F11 and its effect on `reload` and the
ghosts (R81, R82, R83). -/
def Obligations.ControlWriteWhileInactive : Prop :=
  ∀ (s : State) (c : Ctrl) (x : StreamIx) (v : Word) (y y1 : Stream) (unmodelled : Prop),
    y = s.stream c x → y1 = { y with cr := v &&& ~~~(0x1 : Word) } →
    y.fsm.replacing = false → y.cr.getLsbD 0 = false → y.disabling = false →
    (unmodelled ↔ (v.extractLsb' 6 2 ≠ 1 ∨ v.extractLsb' 11 2 = 3 ∨ v.extractLsb' 13 2 = 3 ∨
      v.extractLsb' 13 2 ≠ v.extractLsb' 11 2 ∨ v.getLsbD 5 = true ∨ v.getLsbD 15 = true ∨
      v.extractLsb' 21 2 ≠ 0 ∨ v.extractLsb' 23 2 ≠ 0 ∨ (v.getLsbD 18 = true ∧ v.getLsbD 8 = false))) →
    (v &&& 0xF0100000 ≠ 0 →
      exec (wrInstr c (.stream x .cr) v) s = .next (s.wroteFaulting c x .cr v y .reservedBit)) ∧
    (v &&& 0xF0100000 = 0 → v.getLsbD 0 = false →
      exec (wrInstr c (.stream x .cr) v) s = .next (s.wrote c x .cr v y1)) ∧
    (v &&& 0xF0100000 = 0 → v.getLsbD 0 = true → unmodelled →
      exec (wrInstr c (.stream x .cr) v) s = .next (s.wroteFaulting c x .cr v y1 .unmodelledConfig)) ∧
    (v &&& 0xF0100000 = 0 → v.getLsbD 0 = true → ¬unmodelled → y.ndtr = 0 →
      exec (wrInstr c (.stream x .cr) v) s = .next (s.wroteFaulting c x .cr v y1 .zeroCount)) ∧
    (v &&& 0xF0100000 = 0 → v.getLsbD 0 = true → ¬unmodelled → y.ndtr ≠ 0 →
      (y.tcif = true ∨ y.teif = true ∨ (y.htif = true ∧ s.params.staleHt = .fault)) →
      exec (wrInstr c (.stream x .cr) v) s = .next (s.wroteFaulting c x .cr v y1 .staleFlags)) ∧
    (v &&& 0xF0100000 = 0 → v.getLsbD 0 = true → ¬unmodelled → y.ndtr ≠ 0 →
      y.tcif = false → y.teif = false → (y.htif = false ∨ s.params.staleHt = .allow) →
      exec (wrInstr c (.stream x .cr) v) s =
        .next (s.wrote c x .cr v { y with cr := v, reload := y.ndtr, passes := 0, teCause := .none }))

/-- A write of SxCR to an active stream, outside its own `replace` callback: F3 for a reserved bit, F1 for a protected
field that would change, with nothing changed; otherwise the four interrupt enables are taken, the written CT is
ignored, and EN = 0 disables, at once or by a pending drain (R84, R85). -/
def Obligations.ControlWriteWhileActive : Prop :=
  ∀ (s : State) (c : Ctrl) (x : StreamIx) (v : Word) (y : Stream) (cr : Word),
    y = s.stream c x → cr = (y.cr &&& ~~~(0x1E : Word)) ||| (v &&& 0x1E) →
    y.fsm.replacing = false → (y.cr.getLsbD 0 = true ∨ y.disabling = true) →
    (v &&& 0xF0100000 ≠ 0 →
      exec (wrInstr c (.stream x .cr) v) s = .next (s.wroteFaulting c x .cr v y .reservedBit)) ∧
    (v &&& 0xF0100000 = 0 → v &&& 0x0FE7FFE0 ≠ y.cr &&& 0x0FE7FFE0 →
      exec (wrInstr c (.stream x .cr) v) s = .next (s.wroteFaulting c x .cr v y .protectedWrite)) ∧
    (v &&& 0xF0100000 = 0 → v &&& 0x0FE7FFE0 = y.cr &&& 0x0FE7FFE0 → (v.getLsbD 0 = true ∨ y.disabling = true) →
      exec (wrInstr c (.stream x .cr) v) s = .next (s.wrote c x .cr v { y with cr := cr })) ∧
    (v &&& 0xF0100000 = 0 → v &&& 0x0FE7FFE0 = y.cr &&& 0x0FE7FFE0 → v.getLsbD 0 = false → y.disabling = false →
      exec (wrInstr c (.stream x .cr) v) s = .next (s.wrote c x .cr v
        (if s.params.disableMode = .immediate then { y with cr := cr &&& ~~~(0x1 : Word) }
          else { y with cr := cr, disabling := true })))

/-- Outside the stream's own `replace` callback, SxNDTR reads as the remaining count; a write is F3 for a bit above 15,
then F1 while active, else it is stored (R86, R87). -/
def Obligations.CountRegisterReadsAndWrites : Prop :=
  ∀ (s : State) (c : Ctrl) (x : StreamIx) (v : Word) (y : Stream),
    y = s.stream c x → y.fsm.replacing = false →
    exec (rdInstr c (.stream x .ndtr)) s = .next (s.gave c (.stream x .ndtr) (y.ndtr.setWidth 32)) ∧
    (65536 ≤ v.toNat →
      exec (wrInstr c (.stream x .ndtr) v) s = .next (s.wroteFaulting c x .ndtr v y .reservedBit)) ∧
    (v.toNat < 65536 → (y.cr.getLsbD 0 = true ∨ y.disabling = true) →
      exec (wrInstr c (.stream x .ndtr) v) s = .next (s.wroteFaulting c x .ndtr v y .protectedWrite)) ∧
    (v.toNat < 65536 → y.cr.getLsbD 0 = false → y.disabling = false →
      exec (wrInstr c (.stream x .ndtr) v) s =
        .next (s.wrote c x .ndtr v { y with ndtr := BitVec.ofNat 16 v.toNat }))

/-- Outside the stream's own `replace` callback, SxPAR reads as stored; a write is F1 while active, else it is stored,
whatever its alignment (R88, R89). -/
def Obligations.PeripheralAddressReadsAndWrites : Prop :=
  ∀ (s : State) (c : Ctrl) (x : StreamIx) (v : Word) (y : Stream),
    y = s.stream c x → y.fsm.replacing = false →
    exec (rdInstr c (.stream x .par)) s = .next (s.gave c (.stream x .par) y.par) ∧
    ((y.cr.getLsbD 0 = true ∨ y.disabling = true) →
      exec (wrInstr c (.stream x .par) v) s = .next (s.wroteFaulting c x .par v y .protectedWrite)) ∧
    (y.cr.getLsbD 0 = false → y.disabling = false →
      exec (wrInstr c (.stream x .par) v) s = .next (s.wrote c x .par v { y with par := v }))

/-- Outside the stream's own `replace` callback, SxM0AR and SxM1AR read as stored; a write is taken while the stream is
not active, or when double-buffer mode drains the other buffer, and is F2 otherwise (R90, R91). -/
def Obligations.BufferAddressesReadAndLock : Prop :=
  ∀ (s : State) (c : Ctrl) (x : StreamIx) (v : Word) (y : Stream) (active : Prop),
    y = s.stream c x → y.fsm.replacing = false → (active ↔ (y.cr.getLsbD 0 = true ∨ y.disabling = true)) →
    exec (rdInstr c (.stream x .m0ar)) s = .next (s.gave c (.stream x .m0ar) y.m0ar) ∧
    exec (rdInstr c (.stream x .m1ar)) s = .next (s.gave c (.stream x .m1ar) y.m1ar) ∧
    (¬active ∨ (y.cr.getLsbD 18 = true ∧ y.cr.getLsbD 19 = true) →
      exec (wrInstr c (.stream x .m0ar) v) s = .next (s.wrote c x .m0ar v { y with m0ar := v })) ∧
    (active → (y.cr.getLsbD 18 = false ∨ y.cr.getLsbD 19 = false) →
      exec (wrInstr c (.stream x .m0ar) v) s = .next (s.wroteFaulting c x .m0ar v y .lockedAddrWrite)) ∧
    (¬active ∨ (y.cr.getLsbD 18 = true ∧ y.cr.getLsbD 19 = false) →
      exec (wrInstr c (.stream x .m1ar) v) s = .next (s.wrote c x .m1ar v { y with m1ar := v })) ∧
    (active → (y.cr.getLsbD 18 = false ∨ y.cr.getLsbD 19 = true) →
      exec (wrInstr c (.stream x .m1ar) v) s = .next (s.wroteFaulting c x .m1ar v y .lockedAddrWrite))

/-- Every access to SxFCR outside the stream's own `replace` callback is F8; a read returns 0; no register changes
(R92). -/
def Obligations.FifoControlAccessFaults : Prop :=
  ∀ (s : State) (c : Ctrl) (x : StreamIx) (v : Word), (s.stream c x).fsm.replacing = false →
    exec (rdInstr c (.stream x .fcr)) s = .next { s with
      trace := s.trace ++ [accessOf false c (.stream x .fcr) 0]
      faults := insertFault .fcrAccess s.faults
      ret := .word 0 } ∧
    exec (wrInstr c (.stream x .fcr) v) s =
      .next (s.wroteFaulting c x .fcr v (s.stream c x) .fcrAccess)

/-- Whatever value is written to a register of stream (c, x), and whatever faults it raises, no other stream, no status
flag, no controller FSM, no output log, no byte of memory, no request in progress, no parameter and no agenda entry
changes. -/
def Obligations.StreamWriteFrame : Prop :=
  ∀ (s t : State) (c : Ctrl) (x : StreamIx) (q : SReg) (v : Word),
    exec (wrInstr c (.stream x q) v) s = .next t →
    (∀ c' x', ¬(c' = c ∧ x' = x) → t.stream c' x' = s.stream c' x') ∧
    (t.stream c x).tcif = (s.stream c x).tcif ∧ (t.stream c x).htif = (s.stream c x).htif ∧
    (t.stream c x).teif = (s.stream c x).teif ∧ (t.stream c x).fsm = (s.stream c x).fsm ∧
    (t.stream c x).outlog = (s.stream c x).outlog ∧
    (q ≠ .cr → (t.stream c x).cr = (s.stream c x).cr ∧ (t.stream c x).reload = (s.stream c x).reload ∧
      (t.stream c x).disabling = (s.stream c x).disabling) ∧
    (q ≠ .ndtr → (t.stream c x).ndtr = (s.stream c x).ndtr) ∧
    (q ≠ .par → (t.stream c x).par = (s.stream c x).par) ∧
    (q ≠ .m0ar → (t.stream c x).m0ar = (s.stream c x).m0ar) ∧
    (q ≠ .m1ar → (t.stream c x).m1ar = (s.stream c x).m1ar) ∧
    (∀ a, readByte t.mem a = readByte s.mem a) ∧ t.stack = s.stack ∧ t.inputs = s.inputs ∧ t.params = s.params

/-! ## Engine events -/

/-- EV_ELEMENT on a running engine whose request line is raised and whose access is answered `ok`: F13, then F12, with
nothing moved; otherwise one element of MSIZE bytes moves from the drained buffer to the peripheral address, HTIF is
set at the half point, the count goes down by one; the last element of a pass sets TCIF and either reloads the
count, toggling CT in double-buffer mode, or stops the stream (R95, R96, R97, R98). -/
def Obligations.ElementMovesOneValue : Prop :=
  ∀ (s : State) (c : Ctrl) (x : StreamIx) (y : Stream) (mb pb i ma pa : Nat) (v : Word) (half : Bool),
    y = s.stream c x → y.cr.getLsbD 0 = true → y.disabling = false →
    1 ≤ y.ndtr.toNat → y.ndtr.toNat ≤ y.reload.toNat →
    (y.cr.extractLsb' 13 2).toNat < 3 → (y.cr.extractLsb' 11 2).toNat < 3 →
    mb = 2 ^ (y.cr.extractLsb' 13 2).toNat → pb = 2 ^ (y.cr.extractLsb' 11 2).toNat →
    i = y.reload.toNat - y.ndtr.toNat →
    ma = (if y.cr.getLsbD 18 = true ∧ y.cr.getLsbD 19 = true then y.m1ar else y.m0ar).toNat +
      (if y.cr.getLsbD 10 = true then i * mb else 0) →
    pa = y.par.toNat + (if y.cr.getLsbD 9 = true then i * pb else 0) →
    v = memRead s.mem ma mb → half = (y.htif || decide (y.ndtr.toNat - 1 = htPoint s.params y.reload.toNat)) →
    (4294967296 < ma + mb ∨ 4294967296 < pa + pb →
      exec (.evElement c x { dreq := true, answer := .ok }) s = .next (s.raise .addrWrap)) ∧
    (ma + mb ≤ 4294967296 → pa + pb ≤ 4294967296 → (ma % mb ≠ 0 ∨ pa % pb ≠ 0) →
      exec (.evElement c x { dreq := true, answer := .ok }) s = .next (s.raise .misaligned)) ∧
    (ma + mb ≤ 4294967296 → pa + pb ≤ 4294967296 → ma % mb = 0 → pa % pb = 0 → 1 < y.ndtr.toNat →
      exec (.evElement c x { dreq := true, answer := .ok }) s = .next (s.setStream c x
        { y with
          outlog := y.outlog ++ [{ addr := BitVec.ofNat 32 pa, size := pb, value := v }]
          htif := half
          ndtr := y.ndtr - 1 })) ∧
    (ma + mb ≤ 4294967296 → pa + pb ≤ 4294967296 → ma % mb = 0 → pa % pb = 0 → y.ndtr.toNat = 1 →
      y.cr.getLsbD 8 = true →
      exec (.evElement c x { dreq := true, answer := .ok }) s = .next (s.setStream c x
        { y with
          outlog := y.outlog ++ [{ addr := BitVec.ofNat 32 pa, size := pb, value := v }]
          htif := half
          tcif := true
          passes := y.passes + 1
          ndtr := y.reload
          cr := if y.cr.getLsbD 18 = true then y.cr ^^^ 0x00080000 else y.cr })) ∧
    (ma + mb ≤ 4294967296 → pa + pb ≤ 4294967296 → ma % mb = 0 → pa % pb = 0 → y.ndtr.toNat = 1 →
      y.cr.getLsbD 8 = false →
      exec (.evElement c x { dreq := true, answer := .ok }) s = .next (s.setStream c x
        { y with
          outlog := y.outlog ++ [{ addr := BitVec.ofNat 32 pa, size := pb, value := v }]
          htif := half
          tcif := true
          passes := y.passes + 1
          ndtr := 0
          cr := y.cr &&& ~~~(0x1 : Word) }))

/-- EV_BUS_ERROR on a running engine whose access is answered `error`, and EV_ARB_ERROR on any enabled stream: TEIF is
set, EN and a pending drain are cleared, the ghost cause is kept, and nothing else changes (R100). -/
def Obligations.TransferErrorStopsStream : Prop :=
  ∀ (s : State) (c : Ctrl) (x : StreamIx) (y : Stream), y = s.stream c x → y.cr.getLsbD 0 = true →
    (y.disabling = false →
      exec (.evBusError c x { dreq := true, answer := .error }) s = .next (s.setStream c x
        { y with teif := true, cr := y.cr &&& ~~~(0x1 : Word), disabling := false, teCause := .bus })) ∧
    exec (.evArbError c x) s = .next (s.setStream c x
      { y with teif := true, cr := y.cr &&& ~~~(0x1 : Word), disabling := false, teCause := .arb })

/-- EV_DRAIN_DONE under `DISABLE_MODE = drain` with a disable pending: EN and the pending disable are cleared, TCIF is
set, nothing else changes (R101). -/
def Obligations.DrainDoneDisablesStream : Prop :=
  ∀ (s : State) (c : Ctrl) (x : StreamIx) (y : Stream), y = s.stream c x →
    s.params.disableMode = .drain → y.disabling = true →
    exec (.evDrainDone c x) s =
      .next (s.setStream c x { y with cr := y.cr &&& ~~~(0x1 : Word), disabling := false, tcif := true })

/-- An event is no step where its enabling condition fails: element and bus-error events need a running engine, DREQ and
their own answer; an arbitration error needs EN = 1; a drain needs drain mode and a pending disable (R93, R100,
R101; that the run stops there by name is the model's, log 9). -/
def Obligations.EventsNeedTheirCondition : Prop :=
  ∀ (s : State) (c : Ctrl) (x : StreamIx) (d : Draw) (y : Stream), y = s.stream c x →
    (y.cr.getLsbD 0 = false ∨ y.disabling = true ∨ d.dreq = false ∨ d.answer = .error →
      exec (.evElement c x d) s = .fault .notEnabled) ∧
    (y.cr.getLsbD 0 = false ∨ y.disabling = true ∨ d.dreq = false ∨ d.answer = .ok →
      exec (.evBusError c x d) s = .fault .notEnabled) ∧
    (y.cr.getLsbD 0 = false → exec (.evArbError c x) s = .fault .notEnabled) ∧
    (s.params.disableMode = .immediate ∨ y.disabling = false → exec (.evDrainDone c x) s = .fault .notEnabled)

/-- The frame of the four engine events: whatever one of them does to stream (c, x), every other stream, every byte of
memory, the trace, the requests in progress and what they returned are unchanged, and so are the stream's own
address registers, reload value, controller FSM, protected fields and interrupt enables. -/
def Obligations.EngineEventFrame : Prop :=
  ∀ (s t : State) (c : Ctrl) (x : StreamIx) (d : Draw) (i : Instr),
    i ∈ [.evElement c x d, .evBusError c x d, .evArbError c x, .evDrainDone c x] → exec i s = .next t →
    (∀ c' x', ¬(c' = c ∧ x' = x) → t.stream c' x' = s.stream c' x') ∧
    (t.stream c x).par = (s.stream c x).par ∧ (t.stream c x).m0ar = (s.stream c x).m0ar ∧
    (t.stream c x).m1ar = (s.stream c x).m1ar ∧ (t.stream c x).reload = (s.stream c x).reload ∧
    (t.stream c x).fsm = (s.stream c x).fsm ∧
    (t.stream c x).cr &&& 0xFFF7FFFE = (s.stream c x).cr &&& 0xFFF7FFFE ∧
    (∀ a, readByte t.mem a = readByte s.mem a) ∧ t.trace = s.trace ∧ t.stack = s.stack ∧ t.ret = s.ret ∧
    t.inputs = s.inputs ∧ t.params = s.params

/-! ## Ownership -/

/-- A request in a wrong ownership state, and a request or a register access to a stream from inside that stream's own
`replace` callback, is F14 with no register access and nothing else changed (R106, R125, R134; which registers the
callback bars is the model's reading, log 15). What it hands back is the fault's name (the model's, log 16), and for
a register read 0, as R62 says of a faulting access (log 15). -/
def Obligations.WrongOwnerFaults : Prop :=
  ∀ (s : State) (c : Ctrl) (x : StreamIx) (y : Stream), y = s.stream c x →
    (y.fsm ≠ .idle → ∀ i : Instr,
      ((∃ e, i = .streamListen c x e) ∨ (∃ e, i = .streamUnlisten c x e) ∨ i = .streamIsComplete c x ∨
        i = .streamHasError c x ∨ i = .streamReset c x ∨
        (∃ chan circ src tgt, chan < 8 ∧ i = .sbStart c x chan circ src tgt) ∨
        (∃ chan b0 b1 tgt, chan < 8 ∧ i = .dbStart c x chan b0 b1 tgt)) →
      exec i s = .next (s.refusedBy .notOwner)) ∧
    ((∀ r, y.fsm ≠ .single r) → ∀ i : Instr,
      i ∈ [.sbIsComplete c x, .sbHasError c x, .sbWait c x, .sbReset c x] →
      exec i s = .next (s.refusedBy .notOwner)) ∧
    ((∀ r, y.fsm = .double r → r.inReplace ≠ none) → ∀ i : Instr, i ∈ [.dbPoll c x, .dbReset c x] →
      exec i s = .next (s.refusedBy .notOwner)) ∧
    (∀ r, y.fsm = .double r → r.inReplace ≠ none → ∀ (q : SReg) (v : Word),
      exec (rdInstr c (.stream x q)) s =
        .next { s with faults := insertFault .notOwner s.faults, ret := .word 0 } ∧
      exec (wrInstr c (.stream x q) v) s = .next (s.refusedBy .notOwner))

/-! ## Requests on an idle stream -/

/-- STREAM_LISTEN reads SxCR and then writes it back with the event's enable bit set; STREAM_UNLISTEN, with it cleared.
Nothing else of the stream changes, in particular no flag (R107, R108). -/
def Obligations.ListenSetsAndUnlistenClears : Prop :=
  ∀ (s : State) (c : Ctrl) (x : StreamIx) (e : TransferEvent) (y : Stream) (bit : Word),
    y = s.stream c x → y.fsm = .idle → y.Inv s.params →
    bit = (match e with | .halfTransfer => 0x08 | .transferComplete => 0x10) →
    (∃ t, exec (.streamListen c x e) s = .next t ∧
      t.hostTurns 1 = some { s.setStream c x { y with cr := y.cr ||| bit } with
        trace := s.trace ++ [accessOf false c (.stream x .cr) y.crRead,
          accessOf true c (.stream x .cr) (y.crRead ||| bit)]
        ret := .done }) ∧
    (∃ t, exec (.streamUnlisten c x e) s = .next t ∧
      t.hostTurns 1 = some { s.setStream c x { y with cr := y.cr &&& ~~~bit } with
        trace := s.trace ++ [accessOf false c (.stream x .cr) y.crRead,
          accessOf true c (.stream x .cr) (y.crRead &&& ~~~bit)]
        ret := .done })

/-- STREAM_IS_COMPLETE and STREAM_HAS_ERROR on an idle stream answer TCIF and TEIF with one read of the group's status
register and no side effect (R109, R110). -/
def Obligations.StreamQueriesAnswerFlags : Prop :=
  ∀ (s : State) (c : Ctrl) (x : StreamIx), (s.stream c x).fsm = .idle →
    exec (.streamIsComplete c x) s = .next { s with
      trace := s.trace ++ [s.isrAccess c x], ret := .bool (s.stream c x).tcif } ∧
    exec (.streamHasError c x) s = .next { s with
      trace := s.trace ++ [s.isrAccess c x], ret := .bool (s.stream c x).teif }

/-- STREAM_RESET on an idle stream, its three host steps uninterrupted: the stream is disabled, at once or by a pending
drain, TCIF and TEIF are cleared, HTIF and every other field kept, by one read and two writes (R111, R112). -/
def Obligations.StreamResetStopsAndClears : Prop :=
  ∀ (s : State) (c : Ctrl) (x : StreamIx) (y : Stream), y = s.stream c x → y.fsm = .idle → y.Inv s.params →
    ∃ t, exec (.streamReset c x) s = .next t ∧
      t.hostTurns 2 = some { s.setStream c x (y.stopped s.params) with
        trace := s.trace ++ s.resetTrace c x, ret := .done }

/-! ## Single-buffer transfer -/

/-- SB_START's preconditions in order: CE1 for the source width, CE1 for the target width, CE3, CE4; a failed one is
returned and writes nothing (R115). -/
def Obligations.SingleStartPreconditions : Prop :=
  ∀ (s : State) (c : Ctrl) (x : StreamIx) (chan : Nat) (circ : Bool) (src : Buf) (tgt : Target),
    chan < 8 → (s.stream c x).fsm = .idle →
    (src.width ∉ [1, 2, 4] →
      exec (.sbStart c x chan circ src tgt) s = .next { s with ret := .cfgError .unsupportedWidth }) ∧
    (src.width ∈ [1, 2, 4] → tgt.width ∉ [1, 2, 4] →
      exec (.sbStart c x chan circ src tgt) s = .next { s with ret := .cfgError .unsupportedWidth }) ∧
    (src.width ∈ [1, 2, 4] → tgt.width ∈ [1, 2, 4] → (src.len < 1 ∨ 65535 < src.len) →
      exec (.sbStart c x chan circ src tgt) s = .next { s with ret := .cfgError .badLength }) ∧
    (src.width ∈ [1, 2, 4] → tgt.width ∈ [1, 2, 4] → 1 ≤ src.len → src.len ≤ 65535 →
      allowedPair s.params c x chan tgt.periph = false →
      exec (.sbStart c x chan circ src tgt) s = .next { s with ret := .cfgError .invalidPairing })

/-- SB_START on an idle, inactive, reset stream with equal widths and no field outside scope left over: acquisition,
then, the sixteen host steps uninterrupted, the stream configured and enabled as R116 lists, the record SINGLE and
started. The trace gains fifteen accesses, of which exactly one writes SxNDTR, with the length, and the last, alone
of the SxCR writes, sets EN (R116, R117). -/
def Obligations.SingleStartConfiguresAndEnables : Prop :=
  ∀ (s : State) (c : Ctrl) (x : StreamIx) (chan : Nat) (circ : Bool) (src : Buf) (tgt : Target) (y : Stream) (w cr : Word),
    y = s.stream c x → y.fsm = .idle → y.Inv s.params → y.cr.getLsbD 0 = false → y.tcif = false → y.teif = false →
    (y.htif = false ∨ s.params.staleHt = .allow) → y.cr &&& 0x01E08020 = 0 →
    chan < 8 → src.width ∈ [1, 2, 4] → tgt.width = src.width → 1 ≤ src.len → src.len ≤ 65535 →
    allowedPair s.params c x chan tgt.periph = true →
    w = (if src.width = 1 then 0 else if src.width = 2 then 0x2800 else 0x5000) →
    cr = (y.cr &&& ~~~(0x0E0C7FC1 : Word)) ||| w ||| 0x440 ||| BitVec.ofNat 32 (chan * 33554432) |||
      (if circ then 0x100 else 0) ||| 0x1 →
    ∃ t u pre, exec (.sbStart c x chan circ src tgt) s = .next t ∧
      (t.stream c x).fsm = .single { src := src, tgt := tgt, chan := chan, circ := circ, started := false, errSeen := false } ∧
      t.trace = s.trace ∧
      t.hostTurns 16 = some u ∧
      u = { s.setStream c x { y with
        cr := cr
        ndtr := BitVec.ofNat 16 src.len
        par := tgt.addr
        m0ar := src.addr
        reload := BitVec.ofNat 16 src.len
        passes := 0
        teCause := .none
        fsm := .single { src := src, tgt := tgt, chan := chan, circ := circ, started := true, errSeen := false } } with
        trace := s.trace ++ pre ++ [accessOf true c (.stream x .cr) cr], ret := .transfer } ∧
      pre.length = 14 ∧
      pre.filter (fun a => a.aw = awWord true c (.stream x .ndtr)) =
        [accessOf true c (.stream x .ndtr) (BitVec.ofNat 32 src.len)] ∧
      ∀ a ∈ pre, a.aw = awWord true c (.stream x .cr) → a.data.getLsbD 0 = false

/-- SB_IS_COMPLETE and SB_HAS_ERROR on a single transfer with no error seen answer TCIF and TEIF with one read; an error
seen by SB_HAS_ERROR is recorded in `err_seen`, and nothing else changes (R118, R119). -/
def Obligations.SingleQueriesAnswerFlags : Prop :=
  ∀ (s : State) (c : Ctrl) (x : StreamIx) (r : SingleRec), (s.stream c x).fsm = .single r → r.errSeen = false →
    exec (.sbIsComplete c x) s = .next { s with
      trace := s.trace ++ [s.isrAccess c x], ret := .bool (s.stream c x).tcif } ∧
    exec (.sbHasError c x) s = .next { s.setStream c x
        { s.stream c x with fsm := .single { r with errSeen := (s.stream c x).teif } } with
      trace := s.trace ++ [s.isrAccess c x], ret := .bool (s.stream c x).teif }

/-- After `has_error` returned true, SB_IS_COMPLETE, SB_HAS_ERROR and SB_WAIT are F18 and change nothing else (R118,
R119, R120, R133). -/
def Obligations.AfterErrorOnlyReset : Prop :=
  ∀ (s : State) (c : Ctrl) (x : StreamIx) (r : SingleRec), (s.stream c x).fsm = .single r → r.errSeen = true →
    ∀ i : Instr, i ∈ [.sbIsComplete c x, .sbHasError c x, .sbWait c x] → exec i s = .next (s.refusedBy .afterError)

/-- SB_WAIT returns: Success when its first read shows TCIF, even with TEIF set, and Failure when its second shows TEIF
alone; then RESET_SEQ and IDLE. All its host steps run uninterrupted (R120). -/
def Obligations.SingleWaitReturns : Prop :=
  ∀ (s : State) (c : Ctrl) (x : StreamIx) (r : SingleRec) (y : Stream), y = s.stream c x → y.fsm = .single r →
    r.errSeen = false → y.Inv s.params →
    (y.tcif = true →
      ∃ t, exec (.sbWait c x) s = .next t ∧
        t.hostTurns 4 = some { s.setStream c x { y.stopped s.params with fsm := .idle } with
          trace := s.trace ++ [s.isrAccess c x] ++ s.resetTrace c x, ret := .success }) ∧
    (y.tcif = false → y.teif = true →
      ∃ t, exec (.sbWait c x) s = .next t ∧
        t.hostTurns 5 = some { s.setStream c x { y.stopped s.params with fsm := .idle } with
          trace := s.trace ++ [s.isrAccess c x, s.isrAccess c x] ++ s.resetTrace c x, ret := .failure })

/-- SB_WAIT with no flag set loops: after `2n + 1` further host steps with no engine step between them it has read the
status register `2n + 2` times, changed nothing else, and is back at its first read (R120, R158). -/
def Obligations.SingleWaitLoopsWithoutFlags : Prop :=
  ∀ (s : State) (c : Ctrl) (x : StreamIx) (r : SingleRec), (s.stream c x).fsm = .single r → r.errSeen = false →
    (s.stream c x).tcif = false → (s.stream c x).teif = false →
    ∃ t, exec (.sbWait c x) s = .next t ∧
      ∀ n, t.hostTurns (2 * n + 1) = some { s with
        stack := { c := c, s := x, t := 0, ops := [.waitTc], result := .none } :: s.stack
        trace := s.trace ++ List.replicate (2 * n + 2) (s.isrAccess c x) }

/-- SB_RESET is taken in every phase, `err_seen` or not: RESET_SEQ and IDLE, uninterrupted (R121). -/
def Obligations.SingleResetReleases : Prop :=
  ∀ (s : State) (c : Ctrl) (x : StreamIx) (r : SingleRec) (y : Stream), y = s.stream c x → y.fsm = .single r →
    y.Inv s.params →
    ∃ t, exec (.sbReset c x) s = .next t ∧
      t.hostTurns 3 = some { s.setStream c x { y.stopped s.params with fsm := .idle } with
        trace := s.trace ++ s.resetTrace c x, ret := .stream }

/-! ## Double-buffered transfer -/

/-- DB_START's preconditions in order: CE2, CE5, CE1 for the buffers, CE1 for the target, CE3, CE4; a failed one is
returned and writes nothing (R122). -/
def Obligations.DoubleStartPreconditions : Prop :=
  ∀ (s : State) (c : Ctrl) (x : StreamIx) (chan : Nat) (b0 b1 : Buf) (tgt : Target),
    chan < 8 → (s.stream c x).fsm = .idle →
    (b0.len ≠ b1.len →
      exec (.dbStart c x chan b0 b1 tgt) s = .next { s with ret := .cfgError .lengthMismatch }) ∧
    (b0.len = b1.len → b0.width ≠ b1.width →
      exec (.dbStart c x chan b0 b1 tgt) s = .next { s with ret := .cfgError .widthMismatch }) ∧
    (b0.len = b1.len → b0.width = b1.width → (b0.width ∉ [1, 2, 4] ∨ tgt.width ∉ [1, 2, 4]) →
      exec (.dbStart c x chan b0 b1 tgt) s = .next { s with ret := .cfgError .unsupportedWidth }) ∧
    (b0.len = b1.len → b0.width = b1.width → b0.width ∈ [1, 2, 4] → tgt.width ∈ [1, 2, 4] →
      (b0.len < 1 ∨ 65535 < b0.len) →
      exec (.dbStart c x chan b0 b1 tgt) s = .next { s with ret := .cfgError .badLength }) ∧
    (b0.len = b1.len → b0.width = b1.width → b0.width ∈ [1, 2, 4] → tgt.width ∈ [1, 2, 4] → 1 ≤ b0.len →
      b0.len ≤ 65535 → allowedPair s.params c x chan tgt.periph = false →
      exec (.dbStart c x chan b0 b1 tgt) s = .next { s with ret := .cfgError .invalidPairing })

/-- DB_START on an idle, inactive, reset stream with equal widths and no field outside scope left over: acquisition,
then, the twenty-one host steps uninterrupted, the stream configured and enabled as R123 lists, circular, in
double-buffer mode, draining buffer 0, the record DOUBLE with marker 0 and started (R123). -/
def Obligations.DoubleStartConfiguresAndEnables : Prop :=
  ∀ (s : State) (c : Ctrl) (x : StreamIx) (chan : Nat) (b0 b1 : Buf) (tgt : Target) (y : Stream) (w cr : Word),
    y = s.stream c x → y.fsm = .idle → y.Inv s.params → y.cr.getLsbD 0 = false → y.tcif = false → y.teif = false →
    (y.htif = false ∨ s.params.staleHt = .allow) → y.cr &&& 0x01E08020 = 0 →
    chan < 8 → b0.width ∈ [1, 2, 4] → b1.width = b0.width → tgt.width = b0.width → 1 ≤ b0.len → b0.len ≤ 65535 →
    b1.len = b0.len → allowedPair s.params c x chan tgt.periph = true →
    w = (if b0.width = 1 then 0 else if b0.width = 2 then 0x2800 else 0x5000) →
    cr = (y.cr &&& ~~~(0x0E0C7FC1 : Word)) ||| w ||| 0x440 ||| BitVec.ofNat 32 (chan * 33554432) ||| 0x40101 →
    ∃ t u pre, exec (.dbStart c x chan b0 b1 tgt) s = .next t ∧
      (t.stream c x).fsm = .double
        { buf0 := b0, buf1 := b1, tgt := tgt, chan := chan, started := false, marker := false, inReplace := none } ∧
      t.trace = s.trace ∧
      t.hostTurns 21 = some u ∧
      u = { s.setStream c x { y with
        cr := cr
        ndtr := BitVec.ofNat 16 b0.len
        par := tgt.addr
        m0ar := b0.addr
        m1ar := b1.addr
        reload := BitVec.ofNat 16 b0.len
        passes := 0
        teCause := .none
        fsm := .double
          { buf0 := b0, buf1 := b1, tgt := tgt, chan := chan, started := true, marker := false, inReplace := none } } with
        trace := s.trace ++ pre ++ [accessOf true c (.stream x .cr) cr], ret := .transfer } ∧
      pre.length = 19 ∧ ∀ a ∈ pre, a.aw = awWord true c (.stream x .cr) → a.data.getLsbD 0 = false

/-- DB_POLL with TEIF = 1: the stream is reset and IDLE, the result is Failure, and no callback runs, whatever CT is;
its host steps run uninterrupted (R124 step 1, R126). -/
def Obligations.PollErrorReleases : Prop :=
  ∀ (s : State) (c : Ctrl) (x : StreamIx) (r : DoubleRec) (y : Stream), y = s.stream c x → y.fsm = .double r →
    r.inReplace = none → y.Inv s.params → y.teif = true →
    ∃ t, exec (.dbPoll c x) s = .next t ∧
      t.hostTurns 4 = some { s.setStream c x { y.stopped s.params with fsm := .idle } with
        trace := s.trace ++ [s.isrAccess c x] ++ s.resetTrace c x, ret := .failure }

/-- DB_POLL with TEIF = 0 and CT equal to the marker: two reads, no write, Continue, every register and the record
unchanged (R124 steps 2, 3, R126). -/
def Obligations.PollUnchangedTargetWritesNothing : Prop :=
  ∀ (s : State) (c : Ctrl) (x : StreamIx) (r : DoubleRec) (y : Stream), y = s.stream c x → y.fsm = .double r →
    r.inReplace = none → y.teif = false → y.cr.getLsbD 19 = r.marker →
    ∃ t, exec (.dbPoll c x) s = .next t ∧
      t.hostTurns 1 = some { s with
        trace := s.trace ++ [s.isrAccess c x, accessOf false c (.stream x .cr) y.crRead], ret := .cont }

/-- DB_POLL with TEIF = 0 and CT different from the marker, on a stream whose vacated buffer's register is not locked:
one callback on `buf[marker]`, and when it returns a buffer of the same length and width, one write, of that
buffer's address register; the record takes the new buffer and the marker the CT read; the other address register is
unchanged. No boundary falls between the read of CT and the write (R124 step 4, R126, R127). -/
def Obligations.PollHandsOffVacatedBuffer : Prop :=
  ∀ (s : State) (c : Ctrl) (x : StreamIx) (r : DoubleRec) (y : Stream) (nb : Buf), y = s.stream c x →
    y.fsm = .double r → r.inReplace = none → y.teif = false → y.cr.getLsbD 19 ≠ r.marker →
    (y.cr.getLsbD 0 = true ∨ y.disabling = true → y.cr.getLsbD 18 = true) →
    nb.len = (r.buf r.marker).len → nb.width = (r.buf r.marker).width →
    ∃ t u w, exec (.dbPoll c x) s = .next t ∧ t.hostTurns 1 = some u ∧
      (u.stream c x).fsm = .double { r with inReplace := some r.marker } ∧ u.hostReady = true ∧
      u.returnCallback nb = some w ∧
      w.hostTurns 1 = some { s.setStream c x (if r.marker = true
          then { y with m1ar := nb.addr, fsm := .double { r with buf1 := nb, marker := false } }
          else { y with m0ar := nb.addr, fsm := .double { r with buf0 := nb, marker := true } }) with
        trace := s.trace ++ [s.isrAccess c x, accessOf false c (.stream x .cr) y.crRead,
          accessOf true c (.stream x (if r.marker = true then .m1ar else .m0ar)) nb.addr]
        ret := .cont }

/-- The rest of a hand-off: a replacement of another length or width is F15 with no register write, and an address write
that finds its register locked, because a boundary fell since CT was read, is F2 with the register unchanged; either
way the request ends and the record keeps its buffers and marker (R124, R127, R152; that the request ends is the
model's reading, log 5). -/
def Obligations.HandOffRefused : Prop :=
  ∀ (s : State) (c : Ctrl) (x : StreamIx) (r : DoubleRec) (y : Stream) (tt : Word) (old ct : Bool) (nb : Buf)
    (rest : List Frame),
    y = s.stream c x → y.fsm = .double r →
    s.stack = { c := c, s := x, t := tt, ops := [.install old ct nb], result := .cont } :: rest →
    ((nb.len ≠ (r.buf old).len ∨ nb.width ≠ (r.buf old).width) →
      s.hostTurn = some { s with
        stack := rest, faults := insertFault .replaceMismatch s.faults, ret := .faulted .replaceMismatch }) ∧
    (nb.len = (r.buf old).len → nb.width = (r.buf old).width → (y.cr.getLsbD 0 = true ∨ y.disabling = true) →
      (y.cr.getLsbD 18 = false ∨ y.cr.getLsbD 19 = old) →
      s.hostTurn = some { s with
        stack := rest
        faults := insertFault .lockedAddrWrite s.faults
        trace := s.trace ++ [accessOf true c (.stream x (if old = true then .m1ar else .m0ar)) nb.addr]
        ret := .faulted .lockedAddrWrite })

/-- DB_RESET: RESET_SEQ and IDLE, uninterrupted; HTIF, DBM, CIRC and CT are kept (R129). -/
def Obligations.DoubleResetReleases : Prop :=
  ∀ (s : State) (c : Ctrl) (x : StreamIx) (r : DoubleRec) (y : Stream), y = s.stream c x → y.fsm = .double r →
    r.inReplace = none → y.Inv s.params →
    ∃ t, exec (.dbReset c x) s = .next t ∧
      t.hostTurns 3 = some { s.setStream c x { y.stopped s.params with fsm := .idle } with
        trace := s.trace ++ s.resetTrace c x, ret := .stream }

/-! ## The host's memory -/

/-- A host write that fits the address space and touches no borrowed buffer stores the bytes of its value, lowest first,
leaves every other byte alone and nothing else; a following host read of the same size gives the value back (R42,
R43, R45). -/
def Obligations.HostWriteStoresLittleEndian : Prop :=
  ∀ (s : State) (a v : Word) (size : AccessSize) (rest : List Input) (n : Nat),
    memWf s.mem = true → n = (match size with | .byte => 1 | .half => 2 | .word => 4) →
    s.takes (.memWrite a size v) rest → a.toNat + n ≤ 4294967296 → (∀ j, j < n → ¬s.borrows (a.toNat + j)) →
    ∃ t, step s = .next t ∧ t = { s with mem := t.mem, inputs := rest, ret := .done } ∧
      (∀ j, j < n → readByte t.mem (a.toNat + j) = v.extractLsb' (8 * j) 8) ∧
      (∀ b, b < a.toNat ∨ a.toNat + n ≤ b → readByte t.mem b = readByte s.mem b) ∧
      (t.hostRead a size).ret = .word (v &&& BitVec.ofNat 32 (2 ^ (8 * n) - 1))

/-- A host write that touches a byte of a borrowed buffer is F16 and writes nothing; one past the last address is F13
and writes nothing, and a read past it is F13 too (R42, R57; that a write past the end is F13, before F16, is the
model's, log 14, that a byte of the buffer being replaced which another borrowed buffer holds as well is F16, log
25, and what the refused access hands back, log 16). -/
def Obligations.HostMemoryFaults : Prop :=
  ∀ (s : State) (a v : Word) (size : AccessSize) (rest : List Input) (n : Nat),
    n = (match size with | .byte => 1 | .half => 2 | .word => 4) →
    (s.takes (.memWrite a size v) rest → a.toNat + n ≤ 4294967296 → (∃ j, j < n ∧ s.borrows (a.toNat + j)) →
      step s = .next (({ s with inputs := rest } : State).refusedBy .bufferRace)) ∧
    (s.takes (.memWrite a size v) rest → 4294967296 < a.toNat + n →
      step s = .next (({ s with inputs := rest } : State).refusedBy .addrWrap)) ∧
    (s.takes (.memRead a size) rest → 4294967296 < a.toNat + n →
      step s = .next (({ s with inputs := rest } : State).refusedBy .addrWrap))

/-! ## The whole machine -/

/-- The machine after reset: every register, flag, hidden register, ghost and the FSM of every stream at the value R39
gives, no fault, an empty trace, and no interrupt line raised (R39). The empty memory is the model's (log 4). -/
def Obligations.ResetValues : Prop :=
  State.reset.faults = [] ∧ State.reset.trace = [] ∧
  (∀ c g, State.reset.isr c g = 0) ∧
  ∀ c x, State.reset.stream c x =
      { cr := 0, ndtr := 0, par := 0, m0ar := 0, m1ar := 0, tcif := false, htif := false, teif := false, reload := 0,
        disabling := false, teCause := .none, passes := 0, outlog := [], fsm := .idle } ∧
    (State.reset.stream c x).irq = false

/-- The machine after reset meets the invariant that every step keeps. -/
def Obligations.ResetMeetsInvariant : Prop := State.reset.Inv

/-- Every step keeps the invariant: a running engine's counts and configuration (R94), pending disables (R29), no error
on an enabled stream (R140), the reserved bits of SxCR (R63), equal double buffers (R34), and the canonical form of
memory. -/
def Obligations.StepKeepsInvariant : Prop :=
  ∀ s t : State, s.Inv → step s = .next t → t.Inv

/-- No step removes a fault, rewrites the trace, or changes a parameter (R30, R37). -/
def Obligations.FaultsAndTraceOnlyGrow : Prop :=
  ∀ s t : State, step s = .next t →
    (∀ f, f ∈ s.faults → f ∈ t.faults) ∧ (∃ l, t.trace = s.trace ++ l) ∧ t.params = s.params

/-- Status flags are set only by engine steps and cleared only by host steps: a step that takes an event at the agenda's
head clears no flag of any stream, and any other step sets none (R102). -/
def Obligations.EngineSetsAndHostClearsFlags : Prop :=
  ∀ s t : State, step s = .next t → ∀ c x,
    ((∃ ev d rest, s.inputs = .event ev d :: rest) →
      ((s.stream c x).tcif = true → (t.stream c x).tcif = true) ∧
      ((s.stream c x).htif = true → (t.stream c x).htif = true) ∧
      ((s.stream c x).teif = true → (t.stream c x).teif = true)) ∧
    ((∀ ev d rest, s.inputs ≠ .event ev d :: rest) →
      ((t.stream c x).tcif = true → (s.stream c x).tcif = true) ∧
      ((t.stream c x).htif = true → (s.stream c x).htif = true) ∧
      ((t.stream c x).teif = true → (s.stream c x).teif = true))

/-- Only the host enables a stream and only an engine step of that stream moves an element: a step that takes an event
sets no EN, and where it changes an output log, the event is EV_ELEMENT of that very stream, which is enabled, one
entry is appended, and no other stream changes; any other step leaves every output log as it is (R15, R44, R72,
R93). -/
def Obligations.OnlyHostEnablesOnlyEngineMoves : Prop :=
  ∀ s t : State, step s = .next t → ∀ c x,
    (∀ ev d rest, s.inputs = .event ev d :: rest →
      (crEn (t.stream c x).cr = true → crEn (s.stream c x).cr = true) ∧
      ((t.stream c x).outlog ≠ (s.stream c x).outlog →
        ev = evWord 1 c x ∧ (∃ p, (t.stream c x).outlog = (s.stream c x).outlog ++ [p]) ∧
        crEn (s.stream c x).cr = true ∧ ∀ c' x', ¬(c' = c ∧ x' = x) → t.stream c' x' = s.stream c' x')) ∧
    ((∀ ev d rest, s.inputs ≠ .event ev d :: rest) →
      (t.stream c x).outlog = (s.stream c x).outlog)

/-- A stream's interrupt request line is up exactly while a flag among TCIF, HTIF and TEIF is set whose enable bit in
SxCR is 1; DMEIF never raises it, since it is always 0 (R25, R136). -/
def Obligations.InterruptLineFollowsFlags : Prop :=
  ∀ y : Stream, y.irq = true ↔
    (y.tcif = true ∧ y.cr.getLsbD 4 = true) ∨ (y.htif = true ∧ y.cr.getLsbD 3 = true) ∨
      (y.teif = true ∧ y.cr.getLsbD 2 = true)

/-- An access word carries the direction in bit 11, the controller in bit 10 and the offset in bits 9:0; its physical
address is the controller's base plus the offset, bits 10:0 of which are the word's own; and what it decodes to is
the read or the write of the register of that controller that lies at that address (R60). -/
def Obligations.AccessWordNamesPhysicalAddress : Prop :=
  ∀ (aw : BitVec 12) (data : Word),
    awAddr aw = (if aw.getLsbD 10 = true then 0x40026400 else 0x40026000) + (aw.extractLsb' 0 10).toNat ∧
    awAddr aw % 2048 = (aw.extractLsb' 0 11).toNat ∧
    ∀ i, decode (.access aw .word data) = .ok i →
      ∃ (c : Ctrl) (r : Reg), c = (if aw.getLsbD 10 = true then .dma2 else .dma1) ∧
        r.offset = (aw.extractLsb' 0 10).toNat ∧ awAddr aw = windowBase c + r.offset ∧
        i = (if aw.getLsbD 11 = true then wrInstr c r data else rdInstr c r)

/-- A host read of 1, 2 or 4 bytes that fits the address space gives the little-endian value of the bytes in memory,
whatever was written before, and changes nothing (R42, R45). -/
def Obligations.HostReadGivesLittleEndian : Prop :=
  ∀ (s : State) (a : Word) (size : AccessSize) (rest : List Input) (n : Nat),
    n = (match size with | .byte => 1 | .half => 2 | .word => 4) →
    s.takes (.memRead a size) rest → a.toNat + n ≤ 4294967296 →
    step s = .next { s with
      inputs := rest
      ret := .word (BitVec.ofNat 32
        ((List.range n).map fun j => (readByte s.mem (a.toNat + j)).toNat * 2 ^ (8 * j)).sum) }

/-- SB_START on an idle, inactive stream whose enable write faults: F9 for a target of another width or for a field
outside scope left over in SxCR, and otherwise F11 for stale flags (R83, R116, R138). All fifteen accesses are made,
uninterrupted; the last, which would set EN, leaves the configuration stored and EN = 0 (R81, R82). That the request
ends there, the record SINGLE with started = 0, is the model's reading (log 5). -/
def Obligations.SingleStartEnableFaults : Prop :=
  ∀ (s : State) (c : Ctrl) (x : StreamIx) (chan : Nat) (circ : Bool) (src : Buf) (tgt : Target) (y : Stream)
    (m p cr : Word) (f : ModelFault),
    y = s.stream c x → y.fsm = .idle → y.Inv s.params → y.cr.getLsbD 0 = false →
    chan < 8 → src.width ∈ [1, 2, 4] → tgt.width ∈ [1, 2, 4] → 1 ≤ src.len → src.len ≤ 65535 →
    allowedPair s.params c x chan tgt.periph = true →
    m = (if src.width = 1 then 0 else if src.width = 2 then 0x2000 else 0x4000) →
    p = (if tgt.width = 1 then 0 else if tgt.width = 2 then 0x800 else 0x1000) →
    cr = (y.cr &&& ~~~(0x0E0C7FC1 : Word)) ||| m ||| p ||| 0x440 ||| BitVec.ofNat 32 (chan * 33554432) |||
      (if circ then 0x100 else 0) →
    ((f = .unmodelledConfig ∧ (tgt.width ≠ src.width ∨ y.cr &&& 0x01E08020 ≠ 0)) ∨
      (f = .staleFlags ∧ tgt.width = src.width ∧ y.cr &&& 0x01E08020 = 0 ∧
        (y.tcif = true ∨ y.teif = true ∨ (y.htif = true ∧ s.params.staleHt = .fault)))) →
    ∃ t u pre, exec (.sbStart c x chan circ src tgt) s = .next t ∧ t.hostTurns 15 = some u ∧
      u = { s.setStream c x { y with
        cr := cr
        ndtr := BitVec.ofNat 16 src.len
        par := tgt.addr
        m0ar := src.addr
        fsm := .single { src := src, tgt := tgt, chan := chan, circ := circ, started := false, errSeen := false } } with
        trace := s.trace ++ pre ++ [accessOf true c (.stream x .cr) (cr ||| 0x1)]
        faults := insertFault f s.faults
        ret := .faulted f } ∧
      pre.length = 14 ∧ ∀ a ∈ pre, a.aw = awWord true c (.stream x .cr) → a.data.getLsbD 0 = false

/-- DB_START on an idle, inactive stream whose enable write faults: F9 for a target of another width or for a field
outside scope left over in SxCR, and otherwise F11 for stale flags (R83, R123, R138). All twenty accesses are made,
uninterrupted; the last, which would set EN, leaves the configuration stored and EN = 0 (R81, R82). That the request
ends there, the record DOUBLE with started = 0, is the model's reading (log 5). -/
def Obligations.DoubleStartEnableFaults : Prop :=
  ∀ (s : State) (c : Ctrl) (x : StreamIx) (chan : Nat) (b0 b1 : Buf) (tgt : Target) (y : Stream)
    (m p cr : Word) (f : ModelFault),
    y = s.stream c x → y.fsm = .idle → y.Inv s.params → y.cr.getLsbD 0 = false →
    chan < 8 → b0.width ∈ [1, 2, 4] → b1.width = b0.width → tgt.width ∈ [1, 2, 4] → 1 ≤ b0.len → b0.len ≤ 65535 →
    b1.len = b0.len → allowedPair s.params c x chan tgt.periph = true →
    m = (if b0.width = 1 then 0 else if b0.width = 2 then 0x2000 else 0x4000) →
    p = (if tgt.width = 1 then 0 else if tgt.width = 2 then 0x800 else 0x1000) →
    cr = (y.cr &&& ~~~(0x0E0C7FC1 : Word)) ||| m ||| p ||| 0x440 ||| BitVec.ofNat 32 (chan * 33554432) ||| 0x40100 →
    ((f = .unmodelledConfig ∧ (tgt.width ≠ b0.width ∨ y.cr &&& 0x01E08020 ≠ 0)) ∨
      (f = .staleFlags ∧ tgt.width = b0.width ∧ y.cr &&& 0x01E08020 = 0 ∧
        (y.tcif = true ∨ y.teif = true ∨ (y.htif = true ∧ s.params.staleHt = .fault)))) →
    ∃ t u pre, exec (.dbStart c x chan b0 b1 tgt) s = .next t ∧ t.hostTurns 20 = some u ∧
      u = { s.setStream c x { y with
        cr := cr
        ndtr := BitVec.ofNat 16 b0.len
        par := tgt.addr
        m0ar := b0.addr
        m1ar := b1.addr
        fsm := .double
          { buf0 := b0, buf1 := b1, tgt := tgt, chan := chan, started := false, marker := false, inReplace := none } } with
        trace := s.trace ++ pre ++ [accessOf true c (.stream x .cr) (cr ||| 0x1)]
        faults := insertFault f s.faults
        ret := .faulted f } ∧
      pre.length = 19 ∧ ∀ a ∈ pre, a.aw = awWord true c (.stream x .cr) → a.data.getLsbD 0 = false
end

