-- ==== Sys2Proof/Laws/State.lean ====
section
/-! SUPPORT. One lemma per field per update of the state, and the two laws of the streams: a stream written reads back,
and every other stream is left alone. -/

namespace Sys2Proof.Machine

/-! ## The streams -/

theorem streamIdx_inj (c c' : Ctrl) (x x' : StreamIx) (h : (streamIdx c x).val = (streamIdx c' x').val) :
    c = c' ∧ x = x' := by
  cases c <;> cases c' <;> simp only [streamIdx] at h <;> first
    | exact ⟨rfl, Fin.ext (by omega)⟩
    | (exfalso; omega)

@[simp] theorem stream_setStream_self (st : State) (c : Ctrl) (x : StreamIx) (v : Stream) :
    (st.setStream c x v).stream c x = v := by
  simp [State.stream, State.setStream]

theorem stream_setStream_ne (st : State) (c c' : Ctrl) (x x' : StreamIx) (v : Stream) (h : ¬(c' = c ∧ x' = x)) :
    (st.setStream c x v).stream c' x' = st.stream c' x' := by
  have hne : (streamIdx c x).val ≠ (streamIdx c' x').val := fun e =>
    h ⟨(streamIdx_inj _ _ _ _ e).1.symm, (streamIdx_inj _ _ _ _ e).2.symm⟩
  simp [State.stream, State.setStream, hne]

theorem stream_setStream (st : State) (c c' : Ctrl) (x x' : StreamIx) (v : Stream) :
    (st.setStream c x v).stream c' x' = if c' = c ∧ x' = x then v else st.stream c' x' := by
  split
  · next h => rw [h.1, h.2, stream_setStream_self]
  · next h => exact stream_setStream_ne st c c' x x' v h

theorem stream_setStream_other_ctrl (st : State) (c c' : Ctrl) (x x' : StreamIx) (v : Stream) (h : c' ≠ c) :
    (st.setStream c x v).stream c' x' = st.stream c' x' :=
  stream_setStream_ne st c c' x x' v fun e => h e.1

theorem stream_of_streams {st st' : State} (h : st'.streams = st.streams) (c : Ctrl) (x : StreamIx) :
    st'.stream c x = st.stream c x := by
  simp [State.stream, h]

/-- Two machines agree on every stream exactly when their stream arrays are equal. -/
theorem streams_ext {st st' : State} (h : ∀ c x, st'.stream c x = st.stream c x) : st'.streams = st.streams := by
  apply Vector.ext
  intro i hi
  rcases Nat.lt_or_ge i 8 with h8 | h8
  · have := h .dma1 ⟨i, h8⟩
    simpa [State.stream, streamIdx] using this
  · have := h .dma2 ⟨i - 8, by omega⟩
    simp only [State.stream, streamIdx] at this
    have e : 8 + (i - 8) = i := by omega
    simpa [e] using this

@[simp] theorem setStream_self (st : State) (c : Ctrl) (x : StreamIx) : st.setStream c x (st.stream c x) = st := by
  have : (st.setStream c x (st.stream c x)).streams = st.streams := by
    apply streams_ext
    intro c' x'
    rw [stream_setStream]
    split
    · next h => rw [h.1, h.2]
    · rfl
  cases st
  simp_all [State.setStream]

@[simp] theorem setStream_setStream (st : State) (c : Ctrl) (x : StreamIx) (v w : Stream) :
    (st.setStream c x v).setStream c x w = st.setStream c x w := by
  simp [State.setStream]

/-! ## One field, one update -/

@[simp] theorem setStream_mem (st : State) (c : Ctrl) (x : StreamIx) (v : Stream) : (st.setStream c x v).mem = st.mem := rfl

@[simp] theorem setStream_faults (st : State) (c : Ctrl) (x : StreamIx) (v : Stream) : (st.setStream c x v).faults = st.faults := rfl

@[simp] theorem setStream_trace (st : State) (c : Ctrl) (x : StreamIx) (v : Stream) : (st.setStream c x v).trace = st.trace := rfl

@[simp] theorem setStream_stack (st : State) (c : Ctrl) (x : StreamIx) (v : Stream) : (st.setStream c x v).stack = st.stack := rfl

@[simp] theorem setStream_ret (st : State) (c : Ctrl) (x : StreamIx) (v : Stream) : (st.setStream c x v).ret = st.ret := rfl

@[simp] theorem setStream_inputs (st : State) (c : Ctrl) (x : StreamIx) (v : Stream) : (st.setStream c x v).inputs = st.inputs := rfl

@[simp] theorem setStream_params (st : State) (c : Ctrl) (x : StreamIx) (v : Stream) : (st.setStream c x v).params = st.params := rfl

@[simp] theorem setFsm_mem (st : State) (c : Ctrl) (x : StreamIx) (f : Fsm) : (st.setFsm c x f).mem = st.mem := rfl

@[simp] theorem setFsm_faults (st : State) (c : Ctrl) (x : StreamIx) (f : Fsm) : (st.setFsm c x f).faults = st.faults := rfl

@[simp] theorem setFsm_trace (st : State) (c : Ctrl) (x : StreamIx) (f : Fsm) : (st.setFsm c x f).trace = st.trace := rfl

@[simp] theorem setFsm_stack (st : State) (c : Ctrl) (x : StreamIx) (f : Fsm) : (st.setFsm c x f).stack = st.stack := rfl

@[simp] theorem setFsm_ret (st : State) (c : Ctrl) (x : StreamIx) (f : Fsm) : (st.setFsm c x f).ret = st.ret := rfl

@[simp] theorem setFsm_inputs (st : State) (c : Ctrl) (x : StreamIx) (f : Fsm) : (st.setFsm c x f).inputs = st.inputs := rfl

@[simp] theorem setFsm_params (st : State) (c : Ctrl) (x : StreamIx) (f : Fsm) : (st.setFsm c x f).params = st.params := rfl

@[simp] theorem clearAt_mem (st : State) (c : Ctrl) (x : StreamIx) (v : Word) : (st.clearAt c x v).mem = st.mem := rfl

@[simp] theorem clearAt_faults (st : State) (c : Ctrl) (x : StreamIx) (v : Word) : (st.clearAt c x v).faults = st.faults := rfl

@[simp] theorem clearAt_trace (st : State) (c : Ctrl) (x : StreamIx) (v : Word) : (st.clearAt c x v).trace = st.trace := rfl

@[simp] theorem clearAt_stack (st : State) (c : Ctrl) (x : StreamIx) (v : Word) : (st.clearAt c x v).stack = st.stack := rfl

@[simp] theorem clearAt_ret (st : State) (c : Ctrl) (x : StreamIx) (v : Word) : (st.clearAt c x v).ret = st.ret := rfl

@[simp] theorem clearAt_inputs (st : State) (c : Ctrl) (x : StreamIx) (v : Word) : (st.clearAt c x v).inputs = st.inputs := rfl

@[simp] theorem clearAt_params (st : State) (c : Ctrl) (x : StreamIx) (v : Word) : (st.clearAt c x v).params = st.params := rfl

@[simp] theorem clearGroup_mem (st : State) (c : Ctrl) (g : Group) (v : Word) : (st.clearGroup c g v).mem = st.mem := rfl

@[simp] theorem clearGroup_faults (st : State) (c : Ctrl) (g : Group) (v : Word) : (st.clearGroup c g v).faults = st.faults := rfl

@[simp] theorem clearGroup_trace (st : State) (c : Ctrl) (g : Group) (v : Word) : (st.clearGroup c g v).trace = st.trace := rfl

@[simp] theorem clearGroup_stack (st : State) (c : Ctrl) (g : Group) (v : Word) : (st.clearGroup c g v).stack = st.stack := rfl

@[simp] theorem clearGroup_ret (st : State) (c : Ctrl) (g : Group) (v : Word) : (st.clearGroup c g v).ret = st.ret := rfl

@[simp] theorem clearGroup_inputs (st : State) (c : Ctrl) (g : Group) (v : Word) : (st.clearGroup c g v).inputs = st.inputs := rfl

@[simp] theorem clearGroup_params (st : State) (c : Ctrl) (g : Group) (v : Word) : (st.clearGroup c g v).params = st.params := rfl

@[simp] theorem raise_streams (st : State) (f : ModelFault) : (st.raise f).streams = st.streams := rfl

@[simp] theorem raise_mem (st : State) (f : ModelFault) : (st.raise f).mem = st.mem := rfl

@[simp] theorem raise_trace (st : State) (f : ModelFault) : (st.raise f).trace = st.trace := rfl

@[simp] theorem raise_stack (st : State) (f : ModelFault) : (st.raise f).stack = st.stack := rfl

@[simp] theorem raise_ret (st : State) (f : ModelFault) : (st.raise f).ret = st.ret := rfl

@[simp] theorem raise_inputs (st : State) (f : ModelFault) : (st.raise f).inputs = st.inputs := rfl

@[simp] theorem raise_params (st : State) (f : ModelFault) : (st.raise f).params = st.params := rfl

@[simp] theorem raise_stream (st : State) (f : ModelFault) (c₀ : Ctrl) (x₀ : StreamIx) :
    (st.raise f).stream c₀ x₀ = st.stream c₀ x₀ := rfl

@[simp] theorem fail_streams (st : State) (f : ModelFault) : (st.fail f).streams = st.streams := rfl

@[simp] theorem fail_mem (st : State) (f : ModelFault) : (st.fail f).mem = st.mem := rfl

@[simp] theorem fail_trace (st : State) (f : ModelFault) : (st.fail f).trace = st.trace := rfl

@[simp] theorem fail_stack (st : State) (f : ModelFault) : (st.fail f).stack = st.stack := rfl

@[simp] theorem fail_inputs (st : State) (f : ModelFault) : (st.fail f).inputs = st.inputs := rfl

@[simp] theorem fail_params (st : State) (f : ModelFault) : (st.fail f).params = st.params := rfl

@[simp] theorem fail_stream (st : State) (f : ModelFault) (c₀ : Ctrl) (x₀ : StreamIx) :
    (st.fail f).stream c₀ x₀ = st.stream c₀ x₀ := rfl

@[simp] theorem log_streams (st : State) (aw : BitVec 12) (data : Word) : (st.log aw data).streams = st.streams := rfl

@[simp] theorem log_mem (st : State) (aw : BitVec 12) (data : Word) : (st.log aw data).mem = st.mem := rfl

@[simp] theorem log_faults (st : State) (aw : BitVec 12) (data : Word) : (st.log aw data).faults = st.faults := rfl

@[simp] theorem log_stack (st : State) (aw : BitVec 12) (data : Word) : (st.log aw data).stack = st.stack := rfl

@[simp] theorem log_ret (st : State) (aw : BitVec 12) (data : Word) : (st.log aw data).ret = st.ret := rfl

@[simp] theorem log_inputs (st : State) (aw : BitVec 12) (data : Word) : (st.log aw data).inputs = st.inputs := rfl

@[simp] theorem log_params (st : State) (aw : BitVec 12) (data : Word) : (st.log aw data).params = st.params := rfl

@[simp] theorem log_stream (st : State) (aw : BitVec 12) (data : Word) (c₀ : Ctrl) (x₀ : StreamIx) :
    (st.log aw data).stream c₀ x₀ = st.stream c₀ x₀ := rfl

@[simp] theorem busRead_streams (st : State) (c : Ctrl) (r : Reg) (v : Word) : (st.busRead c r v).streams = st.streams := rfl

@[simp] theorem busRead_mem (st : State) (c : Ctrl) (r : Reg) (v : Word) : (st.busRead c r v).mem = st.mem := rfl

@[simp] theorem busRead_faults (st : State) (c : Ctrl) (r : Reg) (v : Word) : (st.busRead c r v).faults = st.faults := rfl

@[simp] theorem busRead_stack (st : State) (c : Ctrl) (r : Reg) (v : Word) : (st.busRead c r v).stack = st.stack := rfl

@[simp] theorem busRead_ret (st : State) (c : Ctrl) (r : Reg) (v : Word) : (st.busRead c r v).ret = st.ret := rfl

@[simp] theorem busRead_inputs (st : State) (c : Ctrl) (r : Reg) (v : Word) : (st.busRead c r v).inputs = st.inputs := rfl

@[simp] theorem busRead_params (st : State) (c : Ctrl) (r : Reg) (v : Word) : (st.busRead c r v).params = st.params := rfl

@[simp] theorem busRead_stream (st : State) (c : Ctrl) (r : Reg) (v : Word) (c₀ : Ctrl) (x₀ : StreamIx) :
    (st.busRead c r v).stream c₀ x₀ = st.stream c₀ x₀ := rfl

@[simp] theorem abort_streams (st : State) (rest : List Frame) (e : ModelFault) : (st.abort rest e).streams = st.streams := rfl

@[simp] theorem abort_mem (st : State) (rest : List Frame) (e : ModelFault) : (st.abort rest e).mem = st.mem := rfl

@[simp] theorem abort_faults (st : State) (rest : List Frame) (e : ModelFault) : (st.abort rest e).faults = st.faults := rfl

@[simp] theorem abort_trace (st : State) (rest : List Frame) (e : ModelFault) : (st.abort rest e).trace = st.trace := rfl

@[simp] theorem abort_inputs (st : State) (rest : List Frame) (e : ModelFault) : (st.abort rest e).inputs = st.inputs := rfl

@[simp] theorem abort_params (st : State) (rest : List Frame) (e : ModelFault) : (st.abort rest e).params = st.params := rfl

@[simp] theorem abort_stream (st : State) (rest : List Frame) (e : ModelFault) (c₀ : Ctrl) (x₀ : StreamIx) :
    (st.abort rest e).stream c₀ x₀ = st.stream c₀ x₀ := rfl

@[simp] theorem lost_streams (st : State) (rest : List Frame) : (st.lost rest).streams = st.streams := rfl

@[simp] theorem lost_mem (st : State) (rest : List Frame) : (st.lost rest).mem = st.mem := rfl

@[simp] theorem lost_trace (st : State) (rest : List Frame) : (st.lost rest).trace = st.trace := rfl

@[simp] theorem lost_inputs (st : State) (rest : List Frame) : (st.lost rest).inputs = st.inputs := rfl

@[simp] theorem lost_params (st : State) (rest : List Frame) : (st.lost rest).params = st.params := rfl

@[simp] theorem lost_stream (st : State) (rest : List Frame) (c₀ : Ctrl) (x₀ : StreamIx) :
    (st.lost rest).stream c₀ x₀ = st.stream c₀ x₀ := rfl

@[simp] theorem raise_faults (st : State) (f : ModelFault) : (st.raise f).faults = insertFault f st.faults := rfl

@[simp] theorem fail_faults (st : State) (f : ModelFault) : (st.fail f).faults = insertFault f st.faults := rfl

@[simp] theorem fail_ret (st : State) (f : ModelFault) : (st.fail f).ret = .faulted f := rfl

@[simp] theorem lost_faults (st : State) (rest : List Frame) :
    (st.lost rest).faults = insertFault .notOwner st.faults := rfl

@[simp] theorem lost_stack (st : State) (rest : List Frame) : (st.lost rest).stack = rest := rfl

@[simp] theorem abort_stack (st : State) (rest : List Frame) (e : ModelFault) : (st.abort rest e).stack = rest := rfl

@[simp] theorem abort_ret (st : State) (rest : List Frame) (e : ModelFault) : (st.abort rest e).ret = .faulted e := rfl

@[simp] theorem log_trace (st : State) (aw : BitVec 12) (data : Word) :
    (st.log aw data).trace = st.trace ++ [{ aw := aw, data := data }] := rfl

@[simp] theorem busRead_trace (st : State) (c : Ctrl) (r : Reg) (v : Word) :
    (st.busRead c r v).trace = st.trace ++ [{ aw := awWord false c r, data := v }] := rfl

theorem stream_setFsm (st : State) (c c' : Ctrl) (x x' : StreamIx) (f : Fsm) :
    (st.setFsm c x f).stream c' x' =
      if c' = c ∧ x' = x then { st.stream c x with fsm := f } else st.stream c' x' :=
  stream_setStream st c c' x x' _

@[simp] theorem stream_setFsm_self (st : State) (c : Ctrl) (x : StreamIx) (f : Fsm) :
    (st.setFsm c x f).stream c x = { st.stream c x with fsm := f } := stream_setStream_self st c x _

/-! ## Updates that change at most one field each -/

@[simp] theorem raiseOpt_streams (st : State) (f : Option ModelFault) : (st.raiseOpt f).streams = st.streams := by
  cases f <;> rfl

@[simp] theorem raiseOpt_mem (st : State) (f : Option ModelFault) : (st.raiseOpt f).mem = st.mem := by
  cases f <;> rfl

@[simp] theorem raiseOpt_trace (st : State) (f : Option ModelFault) : (st.raiseOpt f).trace = st.trace := by
  cases f <;> rfl

@[simp] theorem raiseOpt_stack (st : State) (f : Option ModelFault) : (st.raiseOpt f).stack = st.stack := by
  cases f <;> rfl

@[simp] theorem raiseOpt_ret (st : State) (f : Option ModelFault) : (st.raiseOpt f).ret = st.ret := by
  cases f <;> rfl

@[simp] theorem raiseOpt_inputs (st : State) (f : Option ModelFault) : (st.raiseOpt f).inputs = st.inputs := by
  cases f <;> rfl

@[simp] theorem raiseOpt_params (st : State) (f : Option ModelFault) : (st.raiseOpt f).params = st.params := by
  cases f <;> rfl

@[simp] theorem raiseOpt_stream (st : State) (f : Option ModelFault) (c₀ : Ctrl) (x₀ : StreamIx) :
    (st.raiseOpt f).stream c₀ x₀ = st.stream c₀ x₀ := by
  cases f <;> rfl

@[simp] theorem advance_streams (st : State) (f : Frame) (rest : List Frame) : (st.advance f rest).streams = st.streams := by
  unfold State.advance; split <;> rfl

@[simp] theorem advance_mem (st : State) (f : Frame) (rest : List Frame) : (st.advance f rest).mem = st.mem := by
  unfold State.advance; split <;> rfl

@[simp] theorem advance_faults (st : State) (f : Frame) (rest : List Frame) : (st.advance f rest).faults = st.faults := by
  unfold State.advance; split <;> rfl

@[simp] theorem advance_trace (st : State) (f : Frame) (rest : List Frame) : (st.advance f rest).trace = st.trace := by
  unfold State.advance; split <;> rfl

@[simp] theorem advance_inputs (st : State) (f : Frame) (rest : List Frame) : (st.advance f rest).inputs = st.inputs := by
  unfold State.advance; split <;> rfl

@[simp] theorem advance_params (st : State) (f : Frame) (rest : List Frame) : (st.advance f rest).params = st.params := by
  unfold State.advance; split <;> rfl

@[simp] theorem advance_stream (st : State) (f : Frame) (rest : List Frame) (c₀ : Ctrl) (x₀ : StreamIx) :
    (st.advance f rest).stream c₀ x₀ = st.stream c₀ x₀ :=
  stream_of_streams (advance_streams st f rest) c₀ x₀

/-- A request with no host step left returns. -/
theorem advance_done (st : State) (f : Frame) (rest : List Frame) (h : f.ops = []) :
    st.advance f rest = { st with stack := rest, ret := f.result } := by
  simp [State.advance, h]

/-- A request with host steps left stays in progress. -/
theorem advance_more (st : State) (f : Frame) (rest : List Frame) (h : f.ops ≠ []) :
    st.advance f rest = { st with stack := f :: rest } := by
  unfold State.advance
  split
  · next e => exact absurd e h
  · rfl

end Sys2Proof.Machine
end

