-- ==== Sys2Proof/Laws/Registers.lean ====
section
/-! SUPPORT. The bits of SxCR, the status registers and the stream register model, said once: what each update of SxCR does
to its fields, what a read of SxCR and of a status register shows, and when an enable is taken. -/

namespace Sys2Proof.Machine

/-! ## Bits of SxCR -/

@[simp] theorem crEn_crEnable (cr : Word) : crEn (crEnable cr) = true := by
  simp [crEn, crEnable, enBit]

@[simp] theorem crEn_crDisable (cr : Word) : crEn (crDisable cr) = false := by
  simp [crEn, crDisable, enBit]

@[simp] theorem crEn_crTakeIe (cr v : Word) : crEn (crTakeIe cr v) = crEn cr := by
  simp [crEn, crTakeIe, ieMask]

@[simp] theorem crEn_crToggleCt (cr : Word) : crEn (crToggleCt cr) = crEn cr := by
  simp [crEn, crToggleCt, ctBit]

theorem and_cr_ext {a b m : Word} (h : ∀ i, i < 32 → m.getLsbD i = true → a.getLsbD i = b.getLsbD i) :
    a &&& m = b &&& m := by
  apply BitVec.eq_of_getLsbD_eq
  intro i hi
  rw [BitVec.getLsbD_and, BitVec.getLsbD_and]
  cases hm : m.getLsbD i
  · simp
  · rw [h i hi hm]

theorem and_three (a : BitVec 2) : a &&& 3#2 = a := BitVec.and_allOnes

/-- ENABLE's configuration check does not see EN. -/
@[simp] theorem cfgUnmodelled_crEnable (cr : Word) : cfgUnmodelled (crEnable cr) = cfgUnmodelled cr := by
  simp [cfgUnmodelled, crDir, crPsize, crMsize, crPfctrl, crPincos, crPburst, crMburst, crDbm, crCirc, crEnable, enBit,
    BitVec.extractLsb'_or]

/-- ENABLE's configuration check does not see CT. -/
@[simp] theorem cfgUnmodelled_crToggleCt (cr : Word) : cfgUnmodelled (crToggleCt cr) = cfgUnmodelled cr := by
  simp [cfgUnmodelled, crDir, crPsize, crMsize, crPfctrl, crPincos, crPburst, crMburst, crDbm, crCirc, crToggleCt, ctBit,
    BitVec.extractLsb'_xor]

/-- ENABLE's configuration check does not see the interrupt enables. -/
@[simp] theorem cfgUnmodelled_crTakeIe (cr v : Word) : cfgUnmodelled (crTakeIe cr v) = cfgUnmodelled cr := by
  simp [cfgUnmodelled, crDir, crPsize, crMsize, crPfctrl, crPincos, crPburst, crMburst, crDbm, crCirc, crTakeIe, ieMask,
    BitVec.extractLsb'_or, BitVec.extractLsb'_and, and_three]

/-- A bit of a word with no bit of a mask is 0 where the mask's is 1. -/
theorem getLsbD_of_and_eq_zero {a m : Word} (h : a &&& m = 0) {i : Nat} (hm : m.getLsbD i = true) :
    a.getLsbD i = false := by
  have := congrArg (fun w : Word => w.getLsbD i) h
  simpa [BitVec.getLsbD_and, hm] using this

/-- A word has no bit of a mask if each of the mask's bits is 0 in it. -/
theorem and_eq_zero_of_bits {a m : Word} (h : ∀ i, m.getLsbD i = true → a.getLsbD i = false) : a &&& m = 0 := by
  apply BitVec.eq_of_getLsbD_eq
  intro i _
  rw [BitVec.getLsbD_and]
  cases hm : m.getLsbD i
  · simp
  · simp [h i hm]

theorem reserved_crDisable {cr : Word} (h : cr &&& rsvCr = 0) : crDisable cr &&& rsvCr = 0 := by
  apply and_eq_zero_of_bits
  intro i hi
  simp [crDisable, BitVec.getLsbD_and, getLsbD_of_and_eq_zero h hi]

theorem reserved_crEnable {cr : Word} (h : cr &&& rsvCr = 0) : crEnable cr &&& rsvCr = 0 := by
  rw [crEnable, BitVec.and_comm, BitVec.and_or_distrib_left, BitVec.and_comm rsvCr cr, h]
  rfl

theorem reserved_crToggleCt {cr : Word} (h : cr &&& rsvCr = 0) : crToggleCt cr &&& rsvCr = 0 := by
  apply and_eq_zero_of_bits
  intro i hi
  rw [crToggleCt, BitVec.getLsbD_xor, getLsbD_of_and_eq_zero h hi,
    getLsbD_of_and_eq_zero (show ctBit &&& rsvCr = 0 from rfl) hi]
  rfl

theorem reserved_crTakeIe {cr v : Word} (h : cr &&& rsvCr = 0) (hv : v &&& rsvCr = 0) :
    crTakeIe cr v &&& rsvCr = 0 := by
  apply and_eq_zero_of_bits
  intro i hi
  simp [crTakeIe, BitVec.getLsbD_or, BitVec.getLsbD_and, getLsbD_of_and_eq_zero h hi, getLsbD_of_and_eq_zero hv hi]

/-! ## Reads of SxCR -/

/-- On a stream that is not active and holds 0 in the reserved bits, SxCR reads as stored. -/
theorem crRead_inactive {y : Stream} (ha : y.active = false) (h : y.cr &&& rsvCr = 0) : y.crRead = y.cr := by
  have he : crEn y.cr = false := by
    simp only [Stream.active, Bool.or_eq_false_iff] at ha
    exact ha.1
  have hb : ∀ i, i < 32 → enBit.getLsbD i = true → i = 0 := by decide
  have hk : y.cr &&& ~~~rsvCr &&& ~~~enBit = y.cr := by
    apply BitVec.eq_of_getLsbD_eq
    intro i hi
    simp only [BitVec.getLsbD_and, BitVec.getLsbD_not, hi, decide_true, Bool.true_and]
    cases hc : y.cr.getLsbD i
    · rfl
    · have h1 : rsvCr.getLsbD i = false := by
        cases hr : rsvCr.getLsbD i
        · rfl
        · rw [getLsbD_of_and_eq_zero h hr] at hc
          cases hc
      have h2 : enBit.getLsbD i = false := by
        cases hr : enBit.getLsbD i
        · rfl
        · rw [hb i hi hr] at hc
          rw [crEn, hc] at he
          cases he
      rw [h1, h2]
      rfl
  simp [Stream.crRead, bitIf, ha, hk]

/-- Bit 0 of a read of SxCR is `active`. -/
@[simp] theorem crEn_crRead (y : Stream) : crEn y.crRead = y.active := by
  simp only [crEn, Stream.crRead, bitIf, BitVec.getLsbD_or, BitVec.getLsbD_and]
  cases y.active <;> simp [enBit, rsvCr]

/-- CT reads as it stands. -/
@[simp] theorem crCt_crRead (y : Stream) : crCt y.crRead = crCt y.cr := by
  simp only [crCt, Stream.crRead, bitIf, BitVec.getLsbD_or, BitVec.getLsbD_and]
  cases y.active <;> simp [enBit, rsvCr]

/-! ## Access words -/

/-- Offsets are below 0x0D0, and no two registers share one. -/
theorem offset_lt (r : Reg) : r.offset < 208 := by
  cases r with
  | isr g => cases g <;> decide
  | ifcr g => cases g <;> decide
  | stream x q =>
    have := x.isLt
    cases q <;> simp only [Reg.offset, SReg.slot] <;> omega

theorem offset_inj {r r' : Reg} (h : r.offset = r'.offset) : r = r' := by
  have hm (r : Reg) : regAt r.offset = some r := by
    cases r with
    | isr g => cases g <;> rfl
    | ifcr g => cases g <;> rfl
    | stream x q => cases q <;> fin_cases x <;> rfl
  have := hm r
  rw [h, hm r'] at this
  exact (Option.some.inj this).symm

/-- An access word tells direction, controller and register. -/
theorem awWord_inj {w w' : Bool} {c c' : Ctrl} {r r' : Reg} :
    awWord w c r = awWord w' c' r' ↔ w = w' ∧ c = c' ∧ r = r' := by
  constructor
  · intro h
    have h1 := offset_lt r
    have h2 := offset_lt r'
    have h3 := congrArg BitVec.toNat h
    simp only [awWord, BitVec.toNat_ofNat] at h3
    have h4 : w = w' ∧ c = c' ∧ r.offset = r'.offset := by
      cases w <;> cases w' <;> cases c <;> cases c' <;> simp [Ctrl.bit] at h3 ⊢ <;> omega
    exact ⟨h4.1, h4.2.1, offset_inj h4.2.2⟩
  · rintro ⟨rfl, rfl, rfl⟩
    rfl

/-- The access word of a register lies at the register's physical address. -/
theorem awAddr_awWord (w : Bool) (c : Ctrl) (r : Reg) : awAddr (awWord w c r) = windowBase c + r.offset := by
  have h : (awWord w c r).getLsbD 10 = (c == .dma2) ∧ (awWord w c r).toNat % 1024 = r.offset := by
    cases r with
    | isr g => cases w <;> cases c <;> cases g <;> decide
    | ifcr g => cases w <;> cases c <;> cases g <;> decide
    | stream x q => cases w <;> cases c <;> cases q <;> revert x <;> decide
  rw [awAddr, h.1, h.2]
  cases c <;> rfl

/-! ## Status registers -/

theorem hasBits_or (a b m : Word) : hasBits (a ||| b) m = (hasBits a m || hasBits b m) := by
  have h : (a ||| b) &&& m = 0 ↔ a &&& m = 0 ∧ b &&& m = 0 := by
    rw [BitVec.and_comm, BitVec.and_or_distrib_left, BitVec.and_comm m a, BitVec.and_comm m b]
    exact BitVec.or_eq_zero_iff
  by_cases h1 : a &&& m = 0 <;> by_cases h2 : b &&& m = 0 <;> simp_all [hasBits]

theorem hasBits_flagWord_tc (g : Group) (k j : Fin 4) (y : Stream) :
    hasBits (flagWord (streamAt g k) y) (tcBit (streamAt g j)) = (decide (k = j) && y.tcif) := by
  have h : ∀ (k j : Fin 4) (te ht tc : Bool), hasBits (bitIf te (teBit (streamAt g k)) |||
      bitIf ht (htBit (streamAt g k)) ||| bitIf tc (tcBit (streamAt g k))) (tcBit (streamAt g j)) =
      (decide (k = j) && tc) := by
    cases g <;> decide
  exact h k j _ _ _

theorem hasBits_flagWord_ht (g : Group) (k j : Fin 4) (y : Stream) :
    hasBits (flagWord (streamAt g k) y) (htBit (streamAt g j)) = (decide (k = j) && y.htif) := by
  have h : ∀ (k j : Fin 4) (te ht tc : Bool), hasBits (bitIf te (teBit (streamAt g k)) |||
      bitIf ht (htBit (streamAt g k)) ||| bitIf tc (tcBit (streamAt g k))) (htBit (streamAt g j)) =
      (decide (k = j) && ht) := by
    cases g <;> decide
  exact h k j _ _ _

theorem hasBits_flagWord_te (g : Group) (k j : Fin 4) (y : Stream) :
    hasBits (flagWord (streamAt g k) y) (teBit (streamAt g j)) = (decide (k = j) && y.teif) := by
  have h : ∀ (k j : Fin 4) (te ht tc : Bool), hasBits (bitIf te (teBit (streamAt g k)) |||
      bitIf ht (htBit (streamAt g k)) ||| bitIf tc (tcBit (streamAt g k))) (teBit (streamAt g j)) =
      (decide (k = j) && te) := by
    cases g <;> decide
  exact h k j _ _ _

/-- A stream is at some position of its group. -/
theorem streamAt_groupOf (x : StreamIx) : ∃ k : Fin 4, streamAt (groupOf x) k = x := by
  revert x
  decide

theorem hasBits_isr_streamAt (s : State) (c : Ctrl) (g : Group) (k : Fin 4) :
    hasBits (s.isr c g) (tcBit (streamAt g k)) = (s.stream c (streamAt g k)).tcif ∧
      hasBits (s.isr c g) (teBit (streamAt g k)) = (s.stream c (streamAt g k)).teif ∧
      hasBits (s.isr c g) (htBit (streamAt g k)) = (s.stream c (streamAt g k)).htif := by
  simp only [State.isr, hasBits_or, hasBits_flagWord_tc, hasBits_flagWord_te, hasBits_flagWord_ht]
  fin_cases k <;> simp

/-- A read of a stream's status register shows its TCIF. -/
@[simp] theorem hasBits_isrRead_tc (s : State) (c : Ctrl) (x : StreamIx) :
    hasBits (s.isrRead c x) (tcBit x) = (s.stream c x).tcif := by
  obtain ⟨k, hk⟩ := streamAt_groupOf x
  have := (hasBits_isr_streamAt s c (groupOf x) k).1
  rwa [hk] at this

/-- A read of a stream's status register shows its TEIF. -/
@[simp] theorem hasBits_isrRead_te (s : State) (c : Ctrl) (x : StreamIx) :
    hasBits (s.isrRead c x) (teBit x) = (s.stream c x).teif := by
  obtain ⟨k, hk⟩ := streamAt_groupOf x
  have := (hasBits_isr_streamAt s c (groupOf x) k).2.1
  rwa [hk] at this

/-- A read of a stream's status register shows its HTIF. -/
@[simp] theorem hasBits_isrRead_ht (s : State) (c : Ctrl) (x : StreamIx) :
    hasBits (s.isrRead c x) (htBit x) = (s.stream c x).htif := by
  obtain ⟨k, hk⟩ := streamAt_groupOf x
  have := (hasBits_isr_streamAt s c (groupOf x) k).2.2
  rwa [hk] at this

/-- A mask of one bit asks for that bit. -/
theorem hasBits_twoPow (v : Word) {i : Nat} (hi : i < 32) : hasBits v (BitVec.ofNat 32 (2 ^ i)) = v.getLsbD i := by
  have he : BitVec.ofNat 32 (2 ^ i) = BitVec.twoPow 32 i := by
    apply BitVec.eq_of_toNat_eq
    simp [BitVec.toNat_twoPow]
  rw [he, hasBits, BitVec.and_twoPow]
  have hne : BitVec.twoPow 32 i ≠ 0 := by
    intro h
    have := congrArg (fun w : Word => w.getLsbD i) h
    simp [hi] at this
  cases v.getLsbD i
  · simp
  · simpa using hne

theorem flagBase_le (k : Nat) : flagBase k ≤ 22 := by
  unfold flagBase
  split
  · omega
  · split
    · omega
    · split <;> omega

/-- The three flags of a stream in its status register, bit by bit. -/
theorem isr_bits (s : State) (c : Ctrl) (x : StreamIx) :
    (s.isr c (groupOf x)).getLsbD (flagBase (x.val % 4) + 3) = (s.stream c x).teif ∧
      (s.isr c (groupOf x)).getLsbD (flagBase (x.val % 4) + 4) = (s.stream c x).htif ∧
      (s.isr c (groupOf x)).getLsbD (flagBase (x.val % 4) + 5) = (s.stream c x).tcif := by
  have hb := flagBase_le (x.val % 4)
  refine ⟨?_, ?_, ?_⟩
  · rw [← hasBits_twoPow _ (by omega)]
    exact hasBits_isrRead_te s c x
  · rw [← hasBits_twoPow _ (by omega)]
    exact hasBits_isrRead_ht s c x
  · rw [← hasBits_twoPow _ (by omega)]
    exact hasBits_isrRead_tc s c x

/-- A status register shows nothing but flags. -/
theorem isr_reserved (s : State) (c : Ctrl) (g : Group) : s.isr c g &&& ~~~(0x0E380E38 : Word) = 0 := by
  have h : ∀ (k : Fin 4) (te ht tc : Bool), (bitIf te (teBit (streamAt g k)) ||| bitIf ht (htBit (streamAt g k)) |||
      bitIf tc (tcBit (streamAt g k))) &&& ~~~(0x0E380E38 : Word) = 0 := by
    cases g <;> decide
  have hk (k : Fin 4) : ~~~(0x0E380E38 : Word) &&& flagWord (streamAt g k) (s.stream c (streamAt g k)) = 0 := by
    rw [BitVec.and_comm]
    exact h k _ _ _
  rw [State.isr, BitVec.and_comm, BitVec.and_or_distrib_left, BitVec.and_or_distrib_left, BitVec.and_or_distrib_left,
    hk, hk, hk, hk]
  rfl

/-- What a clear-register write does to each stream of the controller. -/
theorem stream_clearGroup (s : State) (c : Ctrl) (g : Group) (v : Word) (c' : Ctrl) (x : StreamIx) :
    (s.clearGroup c g v).stream c' x =
      if c' = c ∧ groupOf x = g then clearFlagsOf x v (s.stream c x) else s.stream c' x := by
  have hg : ∀ (g g' : Group) (j k : Fin 4), streamAt g j = streamAt g' k → g = g' ∧ j = k := by
    intro g g'
    cases g <;> cases g' <;> decide
  have ha (st : State) (j : Fin 4) : (st.clearAt c (streamAt g j) v).stream c' x =
      if c' = c ∧ x = streamAt g j then clearFlagsOf x v (st.stream c x) else st.stream c' x := by
    rw [State.clearAt, stream_setStream]
    split
    · next h => rw [h.2]
    · rfl
  by_cases hc : c' = c
  · subst hc
    obtain ⟨k, hk⟩ := streamAt_groupOf x
    have hx (j : Fin 4) : x = streamAt g j ↔ groupOf x = g ∧ j = k := by
      constructor
      · intro h
        have := hg _ _ _ _ (hk.trans h)
        exact ⟨this.1, this.2.symm⟩
      · rintro ⟨rfl, rfl⟩
        exact hk.symm
    simp only [State.clearGroup, ha, true_and, hx]
    by_cases hgx : groupOf x = g
    · simp only [hgx, true_and, if_true]
      fin_cases k <;> simp
    · simp [hgx]
  · simp [State.clearGroup, ha, hc]

end Sys2Proof.Machine
end

