-- ==== Sys2Proof/Laws/Sequencer.lean ====
section
/-! SUPPORT. Host steps of a request in progress, said once: a machine inside a request on one stream is written
`inRequest`, and each kind of host step takes it to another of that form. -/

namespace Sys2Proof.Machine

/-- The machine with stream (c, x) at `y`, the requests `fs` in progress, and the trace `tr`. -/
def State.inRequest (s : State) (c : Ctrl) (x : StreamIx) (y : Stream) (fs : List Frame) (tr : List BusAccess) : State :=
  { s.setStream c x y with stack := fs, trace := tr }

theorem inRequest_self (s : State) (c : Ctrl) (x : StreamIx) :
    s.inRequest c x (s.stream c x) s.stack s.trace = s := by
  simp [State.inRequest]

@[simp] theorem inRequest_stream (s : State) (c : Ctrl) (x : StreamIx) (y : Stream) (fs : List Frame)
    (tr : List BusAccess) : (s.inRequest c x y fs tr).stream c x = y :=
  stream_setStream_self s c x y

@[simp] theorem inRequest_stack (s : State) (c : Ctrl) (x : StreamIx) (y : Stream) (fs : List Frame)
    (tr : List BusAccess) : (s.inRequest c x y fs tr).stack = fs := rfl

@[simp] theorem inRequest_trace (s : State) (c : Ctrl) (x : StreamIx) (y : Stream) (fs : List Frame)
    (tr : List BusAccess) : (s.inRequest c x y fs tr).trace = tr := rfl

@[simp] theorem inRequest_params (s : State) (c : Ctrl) (x : StreamIx) (y : Stream) (fs : List Frame)
    (tr : List BusAccess) : (s.inRequest c x y fs tr).params = s.params := rfl

@[simp] theorem setFsm_inRequest (s : State) (c : Ctrl) (x : StreamIx) (y : Stream) (fs : List Frame)
    (tr : List BusAccess) (f : Fsm) :
    (s.inRequest c x y fs tr).setFsm c x f = s.inRequest c x { y with fsm := f } fs tr := by
  simp only [State.setFsm, inRequest_stream]
  simp [State.inRequest, State.setStream]

@[simp] theorem busRead_inRequest (s : State) (c : Ctrl) (x : StreamIx) (y : Stream) (fs : List Frame)
    (tr : List BusAccess) (r : Reg) (v : Word) :
    (s.inRequest c x y fs tr).busRead c r v = s.inRequest c x y fs (tr ++ [accessOf false c r v]) := rfl

/-- A write of a stream register inside a request, with the fault it raises if any. -/
theorem busWrite_inRequest (s : State) (c : Ctrl) (x : StreamIx) (y : Stream) (fs : List Frame) (tr : List BusAccess)
    (q : SReg) (v : Word) :
    (s.inRequest c x y fs tr).busWrite c (.stream x q) v =
      (s.inRequest c x (writeStreamReg s.params q v y).1 fs (tr ++ [accessOf true c (.stream x q) v])).raiseOpt
        (writeStreamReg s.params q v y).2 := by
  simp only [State.busWrite, State.regWrite, inRequest_stream, inRequest_params]
  simp [State.inRequest, State.setStream, State.log, accessOf]

/-- The machine after the last host step of a request: the request is gone and has returned `r`. -/
def State.returned (s : State) (c : Ctrl) (x : StreamIx) (y : Stream) (fs : List Frame) (tr : List BusAccess)
    (r : Return) : State :=
  { s.setStream c x y with stack := fs, trace := tr, ret := r }

/-! ## On with the request, or its return -/

/-- What `advance` makes of a machine inside a request. -/
def State.afterStep (s : State) (c : Ctrl) (x : StreamIx) (y : Stream) (f : Frame) (rest : List Frame)
    (tr : List BusAccess) : State :=
  match f.ops with
  | [] => s.returned c x y rest tr f.result
  | _ :: _ => s.inRequest c x y (f :: rest) tr

theorem advance_inRequest (s : State) (c : Ctrl) (x : StreamIx) (y : Stream) (f : Frame) (fs rest : List Frame)
    (tr : List BusAccess) : (s.inRequest c x y fs tr).advance f rest = s.afterStep c x y f rest tr := by
  unfold State.advance State.afterStep
  cases f.ops <;> rfl

/-! ## Host steps -/

/-- A read of SxCR. -/
theorem runOp_readCr (s : State) (c : Ctrl) (x : StreamIx) (y : Stream) (f : Frame) (fs rest : List Frame)
    (tr : List BusAccess) (hc : f.c = c) (hx : f.s = x) :
    (s.inRequest c x y fs tr).runOp .readCr f rest =
      s.afterStep c x y { f with t := y.crRead } rest (tr ++ [accessOf false c (.stream x .cr) y.crRead]) := by
  subst hc hx
  rw [← advance_inRequest s f.c f.s y _ fs rest]
  simp only [State.runOp, inRequest_stream]
  rfl

/-- A write of a stream register that raises no fault. -/
theorem afterWrite_stream {s : State} {c : Ctrl} {x : StreamIx} {y y' : Stream} {f : Frame} {fs rest : List Frame}
    {tr : List BusAccess} {q : SReg} {v : Word} (hc : f.c = c)
    (h : writeStreamReg s.params q v y = (y', none)) :
    (s.inRequest c x y fs tr).afterWrite f rest (.stream x q) v =
      s.afterStep c x y' f rest (tr ++ [accessOf true c (.stream x q) v]) := by
  subst hc
  rw [← advance_inRequest s f.c x y' _ fs rest]
  simp only [State.afterWrite, State.regWrite, inRequest_stream, inRequest_params, h, State.busWrite, State.raiseOpt]
  simp [State.inRequest, State.setStream, State.log, accessOf]

/-- A write of a stream register that raises a fault ends the request. -/
theorem afterWrite_stream_fault {s : State} {c : Ctrl} {x : StreamIx} {y y' : Stream} {f : Frame} {fs rest : List Frame}
    {tr : List BusAccess} {q : SReg} {v : Word} {e : ModelFault} (hc : f.c = c)
    (h : writeStreamReg s.params q v y = (y', some e)) :
    (s.inRequest c x y fs tr).afterWrite f rest (.stream x q) v =
      { s.inRequest c x y' rest (tr ++ [accessOf true c (.stream x q) v]) with
        faults := insertFault e s.faults, ret := .faulted e } := by
  subst hc
  simp only [State.afterWrite, State.regWrite, inRequest_stream, inRequest_params, h, State.busWrite, State.raiseOpt]
  simp [State.inRequest, State.setStream, State.log, accessOf, State.abort, State.raise]

/-- The second half of wCR, a write of SxCR that raises no fault. -/
theorem runOp_writeCr {s : State} {c : Ctrl} {x : StreamIx} {y y' : Stream} {f : Frame} {fs rest : List Frame}
    {tr : List BusAccess} {mask val v : Word} (hc : f.c = c) (hx : f.s = x) (hv : (f.t &&& ~~~mask) ||| val = v)
    (h : writeStreamReg s.params .cr v y = (y', none)) :
    (s.inRequest c x y fs tr).runOp (.writeCr mask val) f rest =
      s.afterStep c x y' f rest (tr ++ [accessOf true c (.stream x .cr) v]) := by
  subst hx hv
  exact afterWrite_stream hc h

/-- A write of another stream register that raises no fault. -/
theorem runOp_writeReg {s : State} {c : Ctrl} {x : StreamIx} {y y' : Stream} {f : Frame} {fs rest : List Frame}
    {tr : List BusAccess} {q : SReg} {v : Word} (hc : f.c = c) (hx : f.s = x)
    (h : writeStreamReg s.params q v y = (y', none)) :
    (s.inRequest c x y fs tr).runOp (.writeReg q v) f rest =
      s.afterStep c x y' f rest (tr ++ [accessOf true c (.stream x q) v]) := by
  subst hx
  exact afterWrite_stream hc h

/-! ## RESET_SEQ -/

/-- A flag cleared by a clear register: a stream's own two bits clear its TCIF and TEIF and nothing else. -/
theorem clearFlagsOf_own (g : Group) (k j : Fin 4) (y : Stream) :
    clearFlagsOf (streamAt g k) (tcBit (streamAt g j) ||| teBit (streamAt g j)) y =
      if k = j then { y with tcif := false, teif := false } else y := by
  have h : ∀ k j : Fin 4,
      hasBits (tcBit (streamAt g j) ||| teBit (streamAt g j)) (teBit (streamAt g k)) = decide (k = j) ∧
      hasBits (tcBit (streamAt g j) ||| teBit (streamAt g j)) (htBit (streamAt g k)) = false ∧
      hasBits (tcBit (streamAt g j) ||| teBit (streamAt g j)) (tcBit (streamAt g k)) = decide (k = j) := by
    cases g <;> decide
  obtain ⟨h1, h2, h3⟩ := h k j
  simp only [clearFlagsOf, h1, h2, h3]
  split <;> simp_all

/-- A stream's own two bits in its group's clear register change that stream alone. -/
theorem clearGroup_own (s : State) (c : Ctrl) (x : StreamIx) :
    s.clearGroup c (groupOf x) (tcBit x ||| teBit x) =
      s.setStream c x { s.stream c x with tcif := false, teif := false } := by
  obtain ⟨k, hk⟩ := streamAt_groupOf x
  have ha (st : State) (j : Fin 4) : st.clearAt c (streamAt (groupOf x) j) (tcBit x ||| teBit x) =
      if j = k then st.setStream c x { st.stream c x with tcif := false, teif := false } else st := by
    have := clearFlagsOf_own (groupOf x) j k (st.stream c (streamAt (groupOf x) j))
    rw [hk] at this
    rw [State.clearAt, this]
    split
    · next e => rw [e, hk]
    · rw [setStream_self]
  simp only [State.clearGroup, ha]
  fin_cases k <;> simp

/-- No defined bit is outside a stream's own two. -/
theorem ownBits_defined (x : StreamIx) : (tcBit x ||| teBit x) &&& ~~~ifcrDef = 0 := by
  revert x
  decide

/-- Step 3 of RESET_SEQ. -/
theorem runOp_clearFlags (s : State) (c : Ctrl) (x : StreamIx) (y : Stream) (f : Frame) (fs rest : List Frame)
    (tr : List BusAccess) (hc : f.c = c) (hx : f.s = x) :
    (s.inRequest c x y fs tr).runOp .clearFlags f rest =
      s.afterStep c x { y with tcif := false, teif := false } f rest
        (tr ++ [accessOf true c (.ifcr (groupOf x)) (tcBit x ||| teBit x)]) := by
  subst hc hx
  rw [← advance_inRequest s f.c f.s _ _ fs rest]
  simp only [State.runOp, State.afterWrite, ifcrOf, State.regWrite, ownBits_defined, ne_eq, not_true_eq_false, if_false,
    clearGroup_own, State.busWrite, State.raiseOpt, inRequest_stream]
  simp [State.inRequest, State.setStream, State.log, accessOf]

/-- The last host step of a release. -/
theorem runOp_release (s : State) (c : Ctrl) (x : StreamIx) (y : Stream) (f : Frame) (fs rest : List Frame)
    (tr : List BusAccess) (hc : f.c = c) (hx : f.s = x) :
    (s.inRequest c x y fs tr).runOp .release f rest = s.afterStep c x { y with fsm := .idle } f rest tr := by
  subst hc hx
  rw [← advance_inRequest s f.c f.s _ _ fs rest]
  simp only [State.runOp, State.setFsm, inRequest_stream]
  simp [State.inRequest, State.setStream]

/-- The last host step of a start. -/
theorem runOp_markStarted (s : State) (c : Ctrl) (x : StreamIx) (y : Stream) (f : Frame) (fs rest : List Frame)
    (tr : List BusAccess) (hc : f.c = c) (hx : f.s = x) :
    (s.inRequest c x y fs tr).runOp .markStarted f rest = s.afterStep c x { y with fsm := y.fsm.start } f rest tr := by
  subst hc hx
  rw [← advance_inRequest s f.c f.s _ _ fs rest]
  simp only [State.runOp, State.setFsm, inRequest_stream]
  simp [State.inRequest, State.setStream]

/-! ## Turns -/

/-- A host turn runs the first host step left, unless a callback runs. -/
theorem hostTurn_cons {s : State} {c : Ctrl} {x : StreamIx} {y : Stream} {f : Frame} {rest : List Frame}
    {tr : List BusAccess} {op : HostOp} {ops : List HostOp} (h : f.ops = op :: ops)
    (hop : ∀ old ct, op ≠ .inCallback old ct) :
    (s.inRequest c x y (f :: rest) tr).hostTurn =
      some ((s.inRequest c x y (f :: rest) tr).runOp op { f with ops := ops } rest) := by
  simp only [State.hostTurn, inRequest_stack, h]

theorem hostTurns_one (s : State) : s.hostTurns 1 = s.hostTurn := by
  simp only [State.hostTurns]
  cases s.hostTurn <;> rfl

/-- Some host turns, one after the other. -/
theorem hostTurns_add (s : State) (m n : Nat) : s.hostTurns (m + n) = (s.hostTurns m).bind fun t => t.hostTurns n := by
  induction m generalizing s with
  | zero => simp [State.hostTurns]
  | succ m ih =>
    rw [Nat.add_right_comm]
    simp only [State.hostTurns]
    cases s.hostTurn with
    | none => rfl
    | some t => exact ih t

/-- Two or more host turns: the first, and the rest. -/
theorem hostTurns_succ {s t : State} (n : Nat) (h : s.hostTurn = some t) : s.hostTurns (n + 1) = t.hostTurns n := by
  simp [State.hostTurns, h]

/-! ## One host turn, by the host step it runs -/

section Turns

variable {s : State} {c : Ctrl} {x : StreamIx} {y y' : Stream} {t : Word} {ops : List HostOp} {r : Return}
  {rest : List Frame} {tr : List BusAccess}

/-- A turn that reads SxCR. -/
theorem turn_readCr :
    (s.inRequest c x y ({ c := c, s := x, t := t, ops := .readCr :: ops, result := r } :: rest) tr).hostTurn =
      some (s.afterStep c x y { c := c, s := x, t := y.crRead, ops := ops, result := r } rest
        (tr ++ [accessOf false c (.stream x .cr) y.crRead])) := by
  rw [hostTurn_cons rfl (by simp), runOp_readCr s c x y _ _ _ _ rfl rfl]

/-- A turn that writes SxCR and raises no fault. -/
theorem turn_writeCr {mask val v : Word} (hv : (t &&& ~~~mask) ||| val = v)
    (h : writeStreamReg s.params .cr v y = (y', none)) :
    (s.inRequest c x y ({ c := c, s := x, t := t, ops := .writeCr mask val :: ops, result := r } :: rest) tr).hostTurn =
      some (s.afterStep c x y' { c := c, s := x, t := t, ops := ops, result := r } rest
        (tr ++ [accessOf true c (.stream x .cr) v])) := by
  rw [hostTurn_cons rfl (by simp), runOp_writeCr (c := c) (x := x) rfl rfl hv h]

/-- A turn whose SxCR write raises a fault: the request ends there. -/
theorem turn_writeCr_fault {mask val v : Word} {e : ModelFault} (hv : (t &&& ~~~mask) ||| val = v)
    (h : writeStreamReg s.params .cr v y = (y', some e)) :
    (s.inRequest c x y ({ c := c, s := x, t := t, ops := .writeCr mask val :: ops, result := r } :: rest) tr).hostTurn =
      some { s.inRequest c x y' rest (tr ++ [accessOf true c (.stream x .cr) v]) with
        faults := insertFault e s.faults, ret := .faulted e } := by
  subst hv
  rw [hostTurn_cons rfl (by simp), State.runOp, afterWrite_stream_fault (c := c) (x := x) rfl h]

/-- A turn that writes another stream register and raises no fault. -/
theorem turn_writeReg {q : SReg} {v : Word} (h : writeStreamReg s.params q v y = (y', none)) :
    (s.inRequest c x y ({ c := c, s := x, t := t, ops := .writeReg q v :: ops, result := r } :: rest) tr).hostTurn =
      some (s.afterStep c x y' { c := c, s := x, t := t, ops := ops, result := r } rest
        (tr ++ [accessOf true c (.stream x q) v])) := by
  rw [hostTurn_cons rfl (by simp), runOp_writeReg (c := c) (x := x) rfl rfl h]

/-- A turn that clears TCIF and TEIF. -/
theorem turn_clearFlags :
    (s.inRequest c x y ({ c := c, s := x, t := t, ops := .clearFlags :: ops, result := r } :: rest) tr).hostTurn =
      some (s.afterStep c x { y with tcif := false, teif := false }
        { c := c, s := x, t := t, ops := ops, result := r } rest
        (tr ++ [accessOf true c (.ifcr (groupOf x)) (tcBit x ||| teBit x)])) := by
  rw [hostTurn_cons rfl (by simp), runOp_clearFlags s c x y _ _ _ _ rfl rfl]

/-- A turn that releases the stream. -/
theorem turn_release :
    (s.inRequest c x y ({ c := c, s := x, t := t, ops := .release :: ops, result := r } :: rest) tr).hostTurn =
      some (s.afterStep c x { y with fsm := .idle } { c := c, s := x, t := t, ops := ops, result := r } rest tr) := by
  rw [hostTurn_cons rfl (by simp), runOp_release s c x y _ _ _ _ rfl rfl]

/-- A turn that marks the record started. -/
theorem turn_markStarted :
    (s.inRequest c x y ({ c := c, s := x, t := t, ops := .markStarted :: ops, result := r } :: rest) tr).hostTurn =
      some (s.afterStep c x { y with fsm := y.fsm.start } { c := c, s := x, t := t, ops := ops, result := r } rest
        tr) := by
  rw [hostTurn_cons rfl (by simp), runOp_markStarted s c x y _ _ _ _ rfl rfl]

end Turns

/-- A request whose first host step is a read of SxCR, just begun. -/
theorem beginRequest_readCr (s : State) (c : Ctrl) (x : StreamIx) (ops : List HostOp) (r : Return) :
    s.beginRequest c x .readCr ops r =
      s.afterStep c x (s.stream c x) { c := c, s := x, t := (s.stream c x).crRead, ops := ops, result := r } s.stack
        (s.trace ++ [accessOf false c (.stream x .cr) (s.stream c x).crRead]) := by
  have h := runOp_readCr s c x (s.stream c x) { c := c, s := x, t := 0, ops := ops, result := r } s.stack s.stack s.trace
    rfl rfl
  rwa [inRequest_self] at h

/-! ## Borrowed memory -/

theorem bufHolds_iff (b : Buf) (a : Nat) : bufHolds b a = true ↔ inSpan b a := by
  simp [bufHolds, inSpan]

/-- The buffers a stream has lent out hold an address exactly when the record says so. -/
theorem borrowed_any (f : Fsm) (a : Nat) :
    (f.borrowed.any fun b => bufHolds b a) = true ↔
      (∃ r, f = .single r ∧ inSpan r.src a) ∨
        ∃ r k, f = .double r ∧ r.inReplace ≠ some k ∧ inSpan (r.buf k) a := by
  cases f with
  | idle => simp [Fsm.borrowed]
  | single r => simp [Fsm.borrowed, bufHolds_iff]
  | double r =>
    have hb : (∃ k, r.inReplace ≠ some k ∧ inSpan (r.buf k) a) ↔
        (r.inReplace ≠ some false ∧ inSpan r.buf0 a) ∨ (r.inReplace ≠ some true ∧ inSpan r.buf1 a) := by
      constructor
      · rintro ⟨k, h1, h2⟩
        cases k
        · exact .inl ⟨h1, h2⟩
        · exact .inr ⟨h1, h2⟩
      · rintro (⟨h1, h2⟩ | ⟨h1, h2⟩)
        · exact ⟨false, h1, h2⟩
        · exact ⟨true, h1, h2⟩
    have hl : (∃ r' k, Fsm.double r = .double r' ∧ r'.inReplace ≠ some k ∧ inSpan (r'.buf k) a) ↔
        ∃ k, r.inReplace ≠ some k ∧ inSpan (r.buf k) a := by
      constructor
      · rintro ⟨r', k, h, h1, h2⟩
        cases h
        exact ⟨k, h1, h2⟩
      · rintro ⟨k, h1, h2⟩
        exact ⟨r, k, rfl, h1, h2⟩
    rw [hl, hb]
    by_cases h0 : r.inReplace = some false <;> by_cases h1 : r.inReplace = some true <;>
      simp [Fsm.borrowed, h0, h1, bufHolds_iff]

/-- A host write races exactly when it touches a borrowed byte (R57). -/
theorem races_iff (s : State) (a n : Nat) : s.races a n = true ↔ ∃ j, j < n ∧ s.borrows (a + j) := by
  have hs : ∀ P : Stream → Prop, (∃ y, y ∈ s.streams.toList ∧ P y) ↔ ∃ c x, P (s.stream c x) := by
    intro P
    constructor
    · rintro ⟨y, hy, hp⟩
      obtain ⟨i, hi, rfl⟩ := List.mem_iff_getElem.1 hy
      have hi' : i < 16 := by simpa using hi
      rcases Nat.lt_or_ge i 8 with h8 | h8
      · exact ⟨.dma1, ⟨i, h8⟩, by simpa [State.stream, streamIdx] using hp⟩
      · refine ⟨.dma2, ⟨i - 8, by omega⟩, ?_⟩
        have e : 8 + (i - 8) = i := by omega
        simpa [State.stream, streamIdx, e] using hp
    · rintro ⟨c, x, hp⟩
      exact ⟨_, by simp [State.stream], hp⟩
  have ht (f : Fsm) : (f.borrowed.any fun b => bufTouched b a n) = true ↔
      ∃ j, j < n ∧ (f.borrowed.any fun b => bufHolds b (a + j)) = true := by
    simp only [List.any_eq_true, bufTouched, List.mem_range]
    constructor
    · rintro ⟨b, hb, j, hj, h⟩
      exact ⟨j, hj, b, hb, h⟩
    · rintro ⟨j, hj, b, hb, h⟩
      exact ⟨b, hb, j, hj, h⟩
  rw [State.races, List.any_eq_true, hs fun y => (y.fsm.borrowed.any fun b => bufTouched b a n) = true]
  simp only [ht, borrowed_any]
  constructor
  · rintro ⟨c, x, j, hj, h⟩
    exact ⟨j, hj, c, x, h⟩
  · rintro ⟨j, hj, c, x, h⟩
    exact ⟨c, x, j, hj, h⟩

/-! ## Writes of SxCR -/

/-- A write of SxCR with EN = 0 to a stream that is not active stores the fields (R81). -/
theorem writeCr_configure {p : Params} {v : Word} {y : Stream} (ha : y.active = false) (hr : v &&& rsvCr = 0)
    (he : crEn v = false) : writeStreamReg p .cr v y = ({ y with cr := v }, none) := by
  have hd : crDisable v = v := by
    have hb : ∀ i, i < 32 → enBit.getLsbD i = true → i = 0 := by decide
    apply BitVec.eq_of_getLsbD_eq
    intro i hi
    simp only [crDisable, BitVec.getLsbD_and, BitVec.getLsbD_not, hi, decide_true, Bool.true_and]
    cases hc : enBit.getLsbD i
    · simp
    · rw [hb i hi hc]
      simp only [crEn] at he
      rw [he]
      rfl
  simp [writeStreamReg, ha, writeCrInactive, hr, he, hd]

end Sys2Proof.Machine
end

