-- ==== Sys2Proof/Laws/Access.lean ====
section
/-! SUPPORT. A raw register access, said once for the hundred and four of them, and what each stream register's write
answers. -/

namespace Sys2Proof.Machine

/-- The read of a register. -/
theorem exec_rdInstr (s : State) (c : Ctrl) (r : Reg) : exec (rdInstr c r) s = .next (s.rawRead c r) := by
  cases r with
  | isr g => cases g <;> rfl
  | ifcr g => cases g <;> rfl
  | stream x q => cases q <;> fin_cases x <;> rfl

/-- The write of a register. -/
theorem exec_wrInstr (s : State) (c : Ctrl) (r : Reg) (v : Word) :
    exec (wrInstr c r v) s = .next (s.rawWrite c r v) := by
  cases r with
  | isr g => cases g <;> rfl
  | ifcr g => cases g <;> rfl
  | stream x q => cases q <;> fin_cases x <;> rfl

/-- A raw read that gives a value. -/
theorem rawRead_ok {s : State} {c : Ctrl} {r : Reg} {v : Word} (hb : s.barred c r = false)
    (hv : s.regValue c r = .ok v) : s.rawRead c r = s.gave c r v := by
  simp only [State.rawRead, hb, hv]
  rfl

/-- A raw write that is taken. -/
theorem rawWrite_ok {s : State} {c : Ctrl} {x : StreamIx} {q : SReg} {v : Word} {y : Stream}
    (hb : (s.stream c x).fsm.replacing = false)
    (h : writeStreamReg s.params q v (s.stream c x) = (y, none)) :
    s.rawWrite c (.stream x q) v = s.wrote c x q v y := by
  simp only [State.rawWrite, State.barred, hb, State.regWrite, State.busWrite, h]
  rfl

/-- A raw write that raises a fault. -/
theorem rawWrite_fault {s : State} {c : Ctrl} {x : StreamIx} {q : SReg} {v : Word} {y : Stream} {f : ModelFault}
    (hb : (s.stream c x).fsm.replacing = false)
    (h : writeStreamReg s.params q v (s.stream c x) = (y, some f)) :
    s.rawWrite c (.stream x q) v = s.wroteFaulting c x q v y f := by
  simp only [State.rawWrite, State.barred, hb, State.regWrite, State.busWrite, h]
  rfl

/-- A raw read that a running callback bars. -/
theorem rawRead_barred {s : State} {c : Ctrl} {r : Reg} (hb : s.barred c r = true) :
    s.rawRead c r = { s with faults := insertFault .notOwner s.faults, ret := .word 0 } := by
  simp only [State.rawRead, hb]
  rfl

/-- A raw write that a running callback bars. -/
theorem rawWrite_barred {s : State} {c : Ctrl} {r : Reg} {v : Word} (hb : s.barred c r = true) :
    s.rawWrite c r v = s.refusedBy .notOwner := by
  simp only [State.rawWrite, hb]
  rfl

end Sys2Proof.Machine
end

