-- ==== Sys2Proof/Laws/Memory.lean ====
section
/-! SUPPORT. The laws of memory: reads after writes, and the canonical form. -/

namespace Sys2Proof.Machine

@[simp] theorem memWf_nil : memWf [] = true := rfl

theorem memWf_cons (k : Nat) (b : Byte) (m : List Host.Cell) :
    memWf ((k, b) :: m) = true ↔
      k < Config.addrLimit ∧ b ≠ Config.unlistedByte ∧ keysAbove k m = true ∧ memWf m = true := by
  simp [memWf, and_assoc]

theorem keysAbove_cons (lo k : Nat) (b : Byte) (m : List Host.Cell) :
    keysAbove lo ((k, b) :: m) = true ↔ lo < k ∧ keysAbove lo m = true := by
  simp [keysAbove]

theorem keysAbove_mono {lo lo' : Nat} (h : lo' ≤ lo) {m : List Host.Cell} (hm : keysAbove lo m = true) :
    keysAbove lo' m = true := by
  simp only [keysAbove, List.all_eq_true, decide_eq_true_eq] at hm ⊢
  exact fun c hc => Nat.lt_of_le_of_lt h (hm c hc)

/-- Below every key, memory reads as unlisted. -/
theorem readByte_of_keysAbove {lo a : Nat} (h : a ≤ lo) {m : List Host.Cell} (hm : keysAbove lo m = true) :
    readByte m a = Config.unlistedByte := by
  cases m with
  | nil => rfl
  | cons c rest =>
    obtain ⟨k, b⟩ := c
    have hk := ((keysAbove_cons lo k b rest).1 hm).1
    have h1 : ¬ a = k := by omega
    have h2 : a < k := by omega
    simp [readByte, h1, h2]

theorem keysAbove_writeByte {lo a : Nat} (h : lo < a) (v : Byte) {m : List Host.Cell} (hm : keysAbove lo m = true) :
    keysAbove lo (writeByte m a v) = true := by
  induction m with
  | nil =>
    simp only [writeByte]
    split
    · rfl
    · simp [keysAbove, h]
  | cons c rest ih =>
    obtain ⟨k, b⟩ := c
    obtain ⟨hk, hr⟩ := (keysAbove_cons lo k b rest).1 hm
    have hc : keysAbove lo ((k, b) :: rest) = true := hm
    simp only [writeByte]
    split
    · split
      · exact hc
      · exact (keysAbove_cons lo a v _).2 ⟨h, hc⟩
    · split
      · split
        · exact hr
        · exact (keysAbove_cons lo a v _).2 ⟨h, hr⟩
      · exact (keysAbove_cons lo k b _).2 ⟨hk, ih hr⟩

/-- A byte write keeps the canonical form. -/
theorem memWf_writeByte {m : List Host.Cell} (hm : memWf m = true) {a : Nat} (ha : a < Config.addrLimit) (v : Byte) :
    memWf (writeByte m a v) = true := by
  induction m with
  | nil =>
    simp only [writeByte]
    split
    · rfl
    · next hv => exact (memWf_cons a v []).2 ⟨ha, hv, rfl, rfl⟩
  | cons c rest ih =>
    obtain ⟨k, b⟩ := c
    obtain ⟨hk, hb, hka, hr⟩ := (memWf_cons k b rest).1 hm
    simp only [writeByte]
    split
    · next hlt =>
      split
      · exact hm
      · next hv =>
        exact (memWf_cons a v _).2
          ⟨ha, hv, (keysAbove_cons a k b rest).2 ⟨hlt, keysAbove_mono (Nat.le_of_lt hlt) hka⟩, hm⟩
    · split
      · next heq =>
        split
        · exact hr
        · next hv => exact (memWf_cons a v rest).2 ⟨ha, hv, heq ▸ hka, hr⟩
      · next hlt heq =>
        exact (memWf_cons k b _).2 ⟨hk, hb, keysAbove_writeByte (by omega) v hka, ih hr⟩

/-- A byte read after a byte write: the byte written at its address, the old byte elsewhere. -/
theorem readByte_writeByte {m : List Host.Cell} (hm : memWf m = true) (a a' : Nat) (v : Byte) :
    readByte (writeByte m a v) a' = if a' = a then v else readByte m a' := by
  induction m with
  | nil =>
    simp only [writeByte]
    split
    · next hv => split <;> simp [readByte, hv]
    · simp only [readByte]; split
      · rfl
      · split <;> rfl
  | cons c rest ih =>
    obtain ⟨k, b⟩ := c
    obtain ⟨hk, hb, hka, hr⟩ := (memWf_cons k b rest).1 hm
    have ih := ih hr
    simp only [writeByte]
    split
    · next hlt =>
      split
      · next hv =>
        split
        · next e => subst e; simp [readByte, hv, hlt, Nat.ne_of_lt hlt]
        · rfl
      · simp only [readByte]
        by_cases h1 : a' = a
        · simp [h1]
        · by_cases h2 : a' < a
          · have h3 : ¬ a' = k := by omega
            have h4 : a' < k := by omega
            simp [h1, h2, h3, h4]
          · simp [h1, h2]
    · split
      · next hlt heq =>
        subst heq
        split
        · next hv =>
          by_cases h1 : a' = a
          · subst h1; simp [readByte_of_keysAbove (Nat.le_refl _) hka, hv]
          · simp only [readByte, h1, if_false]
            split
            · next h2 => exact readByte_of_keysAbove (Nat.le_of_lt h2) hka
            · rfl
        · by_cases h1 : a' = a <;> simp [readByte, h1]
      · next hlt heq =>
        simp only [readByte]
        by_cases h1 : a' = k
        · have : ¬ a' = a := by omega
          simp [h1, show ¬ k = a from fun e => heq e.symm]
        · by_cases h2 : a' < k
          · have : ¬ a' = a := by omega
            simp [h1, h2, this]
          · simp [h1, h2, ih]

/-- A host write keeps the canonical form. -/
theorem memWf_memWrite {n : Nat} : ∀ {m : List Host.Cell} (_ : memWf m = true) {a : Nat}
    (_ : a + n ≤ Config.addrLimit) (v : Word), memWf (memWrite m a n v) = true := by
  induction n with
  | zero => intro m hm a _ v; exact hm
  | succ k ih => intro m hm a ha v; exact ih (memWf_writeByte hm (by omega) _) (by omega) _

/-- A host write leaves every byte outside it as it was. -/
theorem readByte_memWrite_outside {n : Nat} : ∀ {m : List Host.Cell} (_ : memWf m = true) {a : Nat}
    (_ : a + n ≤ Config.addrLimit) (v : Word) {b : Nat} (_ : b < a ∨ a + n ≤ b),
    readByte (memWrite m a n v) b = readByte m b := by
  induction n with
  | zero => intro m _ a _ v b _; rfl
  | succ k ih =>
    intro m hm a ha v b hb
    rw [memWrite, ih (memWf_writeByte hm (by omega) _) (by omega) _ (by omega), readByte_writeByte hm]
    simp [show ¬ b = a by omega]

/-- A host write puts byte `j` of the value at the `j`-th address. -/
theorem readByte_memWrite_inside {n : Nat} : ∀ {m : List Host.Cell} (_ : memWf m = true) {a : Nat}
    (_ : a + n ≤ Config.addrLimit) (v : Word) {j : Nat} (_ : j < n),
    readByte (memWrite m a n v) (a + j) = v.extractLsb' (8 * j) 8 := by
  induction n with
  | zero => intro m _ a _ v j hj; omega
  | succ k ih =>
    intro m hm a ha v j hj
    have hw := memWf_writeByte hm (a := a) (by omega) (v.setWidth 8)
    cases j with
    | zero =>
      rw [memWrite, readByte_memWrite_outside hw (by omega) _ (by omega), readByte_writeByte hm]
      simp only [Nat.add_zero, if_true, Nat.mul_zero]
      ext i hi
      simp
    | succ j =>
      rw [memWrite, show a + (j + 1) = (a + 1) + j by omega, ih hw (by omega) _ (by omega)]
      ext i hi
      simp [show 8 + (8 * j + i) = 8 * (j + 1) + i by omega]

/-- The little-endian value of the bytes of a value. -/
theorem memValue_of_bytes {n : Nat} : ∀ {m : List Host.Cell} {a : Nat} {v : Word}
    (_ : ∀ j, j < n → readByte m (a + j) = v.extractLsb' (8 * j) 8), memValue m a n = v.toNat % 2 ^ (8 * n) := by
  induction n with
  | zero => intro m a v _; simp [memValue, Nat.mod_one]
  | succ k ih =>
    intro m a v h
    have h0 := h 0 (by omega)
    have hr : memValue m (a + 1) k = (v >>> 8).toNat % 2 ^ (8 * k) := by
      apply ih
      intro j hj
      have := h (j + 1) (by omega)
      rw [Nat.add_assoc, Nat.add_comm 1 j, this]
      apply BitVec.eq_of_toNat_eq
      simp only [BitVec.extractLsb'_toNat, BitVec.toNat_ushiftRight, ← Nat.shiftRight_add]
      congr 2
      omega
    simp only [Nat.add_zero, Nat.mul_zero] at h0
    have h0' : (readByte m a).toNat = v.toNat % 256 := by
      rw [h0]
      simp [BitVec.extractLsb'_toNat]
    rw [memValue, hr, h0', BitVec.toNat_ushiftRight, Nat.shiftRight_eq_div_pow]
    have e : 2 ^ (8 * (k + 1)) = 256 * 2 ^ (8 * k) := by
      rw [Nat.mul_add, Nat.pow_add, Nat.mul_comm]
    rw [e, Nat.mod_mul]

/-- A read of what was just written gives the low bytes of the value back (R42, R43, R45). -/
theorem memRead_memWrite {m : List Host.Cell} (hm : memWf m = true) {a n : Nat} (ha : a + n ≤ Config.addrLimit)
    (v : Word) : memRead (memWrite m a n v) a n = BitVec.ofNat 32 (v.toNat % 2 ^ (8 * n)) := by
  rw [memRead, memValue_of_bytes fun j hj => readByte_memWrite_inside hm ha v hj]

end Sys2Proof.Machine
end

