-- ==== Sys2Proof/Laws/Effect.lean ====
section
/-! SUPPORT. What a step can do, said once: an engine event moves one stream by one of three engine moves and touches
nothing else; everything else is the host's and moves streams only by register writes, clears and changes of the
controller FSM. Invariants are derived from this and never unfold the step. -/

namespace Sys2Proof.Machine

/-! ## Moves of one stream -/

/-- What a host step can do to a stream's controller FSM (R36). -/
inductive FsmStep : Fsm → Fsm → Prop where
  | same (f : Fsm) : FsmStep f f
  | release (f : Fsm) : FsmStep f .idle
  | single (r : SingleRec) : FsmStep .idle (.single r)
  | double (r : DoubleRec) (hl : r.buf0.len = r.buf1.len) (hw : r.buf0.width = r.buf1.width) : FsmStep .idle (.double r)
  | start (f : Fsm) : FsmStep f f.start
  | seen (r : SingleRec) : FsmStep (.single r) (.single { r with errSeen := true })
  | replacing (r : DoubleRec) (k : Option Bool) : FsmStep (.double r) (.double { r with inReplace := k })
  | install (r : DoubleRec) (old ct : Bool) (nb : Buf) (h : replacementOk nb (r.buf old) = true) :
      FsmStep (.double r) (.double { r.setBuf old nb with marker := ct })

/-- One thing a host step can do to one stream. -/
inductive HostMove (p : Params) : Stream → Stream → Prop where
  | fsm (y : Stream) (f : Fsm) (h : FsmStep y.fsm f) : HostMove p y { y with fsm := f }
  | write (y : Stream) (r : SReg) (v : Word) : HostMove p y (writeStreamReg p r v y).1
  | clear (x : StreamIx) (y : Stream) (v : Word) : HostMove p y (clearFlagsOf x v y)

/-- What a host step can do to one stream: some host moves in a row. -/
abbrev HostMoves (p : Params) : Stream → Stream → Prop := Relation.ReflTransGen (HostMove p)

/-- What an engine event can do to its stream. -/
inductive EngineMove (p : Params) (y : Stream) : Stream → Prop where
  | element (mb pb : Nat) (v : Word) (hrun : y.engine = some .running) (hc : y.countsOk = true)
      (hm : bytesOf (crMsize y.cr) = some mb) (hp : bytesOf (crPsize y.cr) = some pb)
      (ha : (y.paddr pb) + pb ≤ Config.addrLimit) (hma : (y.maddr mb) + mb ≤ Config.addrLimit) :
      EngineMove p y (moveElement p (y.paddr pb) pb v y)
  | error (cause : TeCause) (hen : crEn y.cr = true) : EngineMove p y (transferError cause y)
  | drained (hmode : p.disableMode = .drain) (hd : y.disabling = true) : EngineMove p y (drainDone y)

/-! ## Host steps -/

/-- What a host step can do to the machine. -/
structure HostEffect (s t : State) : Prop where
  streams : ∀ c x, HostMoves s.params (s.stream c x) (t.stream c x)
  params : t.params = s.params
  faults : ∀ f, f ∈ s.faults → f ∈ t.faults
  trace : s.trace <+: t.trace
  mem : memWf s.mem = true → memWf t.mem = true

theorem HostEffect.refl (s : State) : HostEffect s s :=
  ⟨fun _ _ => .refl, rfl, fun _ h => h, List.prefix_refl _, fun h => h⟩

theorem HostEffect.trans {s t u : State} (h : HostEffect s t) (h' : HostEffect t u) : HostEffect s u where
  streams c x := (h.streams c x).trans (h.params ▸ h'.streams c x)
  params := h'.params.trans h.params
  faults f hf := h'.faults f (h.faults f hf)
  trace := h.trace.trans h'.trace
  mem hm := h'.mem (h.mem hm)

/-- A step that leaves streams, memory, faults, trace and parameters alone. -/
theorem HostEffect.of_same {s t : State} (hs : t.streams = s.streams) (hm : t.mem = s.mem) (hf : t.faults = s.faults)
    (ht : t.trace = s.trace) (hp : t.params = s.params) : HostEffect s t where
  streams c x := by rw [stream_of_streams hs]
  params := hp
  faults f h := hf ▸ h
  trace := ht ▸ List.prefix_refl _
  mem h := hm ▸ h

theorem mem_insertFault_self (f : ModelFault) (l : List ModelFault) : f ∈ insertFault f l := by
  induction l with
  | nil => simp [insertFault]
  | cons g rest ih =>
    simp only [insertFault]
    split
    · simp
    · split
      · next h => simp [h]
      · exact List.mem_cons_of_mem _ ih

theorem mem_insertFault {e : ModelFault} (f : ModelFault) {l : List ModelFault} (h : e ∈ l) : e ∈ insertFault f l := by
  induction l with
  | nil => simp at h
  | cons g rest ih =>
    simp only [insertFault]
    split
    · exact List.mem_cons_of_mem _ h
    · split
      · exact h
      · rcases List.mem_cons.1 h with rfl | h
        · simp
        · exact List.mem_cons_of_mem _ (ih h)

theorem HostEffect.raise (s : State) (f : ModelFault) : HostEffect s (s.raise f) :=
  { HostEffect.of_same (t := { s with faults := s.faults }) rfl rfl rfl rfl rfl with
    faults := fun _ h => mem_insertFault f h }

theorem HostEffect.raiseOpt (s : State) (f : Option ModelFault) : HostEffect s (s.raiseOpt f) := by
  cases f with
  | none => exact .refl s
  | some e => exact .raise s e

theorem HostEffect.fail (s : State) (f : ModelFault) : HostEffect s (s.fail f) :=
  (HostEffect.raise s f).trans (.of_same rfl rfl rfl rfl rfl)

theorem HostEffect.log (s : State) (aw : BitVec 12) (d : Word) : HostEffect s (s.log aw d) :=
  { HostEffect.of_same (t := { s with trace := s.trace }) rfl rfl rfl rfl rfl with
    trace := List.prefix_append _ _ }

theorem HostEffect.busRead (s : State) (c : Ctrl) (r : Reg) (v : Word) : HostEffect s (s.busRead c r v) :=
  .log s _ _

theorem HostEffect.setStream (s : State) (c : Ctrl) (x : StreamIx) (v : Stream)
    (h : HostMoves s.params (s.stream c x) v) : HostEffect s (s.setStream c x v) :=
  { HostEffect.of_same (t := { s with streams := s.streams }) rfl rfl rfl rfl rfl with
    streams := fun c' x' => by
      rw [stream_setStream]
      split
      · next e => rw [e.1, e.2]; exact h
      · exact .refl }

theorem HostEffect.setFsm (s : State) (c : Ctrl) (x : StreamIx) (f : Fsm) (h : FsmStep (s.stream c x).fsm f) :
    HostEffect s (s.setFsm c x f) :=
  .setStream s c x _ (.single (.fsm _ f h))

theorem HostEffect.clearAt (s : State) (c : Ctrl) (x : StreamIx) (v : Word) : HostEffect s (s.clearAt c x v) :=
  .setStream s c x _ (.single (.clear x _ v))

theorem HostEffect.clearGroup (s : State) (c : Ctrl) (g : Group) (v : Word) : HostEffect s (s.clearGroup c g v) :=
  (((HostEffect.clearAt s c _ v).trans (.clearAt _ c _ v)).trans (.clearAt _ c _ v)).trans (.clearAt _ c _ v)

theorem HostEffect.regWrite (s : State) (c : Ctrl) (r : Reg) (v : Word) : HostEffect s (s.regWrite c r v).1 := by
  cases r with
  | isr g => exact .refl s
  | ifcr g =>
    simp only [State.regWrite]
    split
    · exact .refl s
    · exact .clearGroup s c g v
  | stream x q => exact .setStream s c x _ (.single (.write _ q v))

theorem HostEffect.busWrite (s : State) (c : Ctrl) (r : Reg) (v : Word) : HostEffect s (s.busWrite c r v) :=
  ((HostEffect.regWrite s c r v).trans (.log _ _ _)).trans (.raiseOpt _ _)

theorem HostEffect.advance (s : State) (f : Frame) (rest : List Frame) : HostEffect s (s.advance f rest) :=
  .of_same (advance_streams ..) (advance_mem ..) (advance_faults ..) (advance_trace ..) (advance_params ..)

theorem HostEffect.abort (s : State) (rest : List Frame) (e : ModelFault) : HostEffect s (s.abort rest e) :=
  .of_same rfl rfl rfl rfl rfl

theorem HostEffect.lost (s : State) (rest : List Frame) : HostEffect s (s.lost rest) :=
  (HostEffect.raise s .notOwner).trans (.abort _ _ _)

theorem HostEffect.afterWrite (s : State) (f : Frame) (rest : List Frame) (r : Reg) (v : Word) :
    HostEffect s (s.afterWrite f rest r v) := by
  unfold State.afterWrite
  split
  · exact (HostEffect.busWrite s _ _ _).trans (.advance _ _ _)
  · exact (HostEffect.busWrite s _ _ _).trans (.abort _ _ _)

theorem HostEffect.rawRead (s : State) (c : Ctrl) (r : Reg) : HostEffect s (s.rawRead c r) := by
  unfold State.rawRead
  split
  · exact (HostEffect.raise s _).trans (.of_same rfl rfl rfl rfl rfl)
  · split
    · exact (HostEffect.busRead s _ _ _).trans (.of_same rfl rfl rfl rfl rfl)
    · exact ((HostEffect.busRead s _ _ _).trans (.raise _ _)).trans (.of_same rfl rfl rfl rfl rfl)

theorem HostEffect.rawWrite (s : State) (c : Ctrl) (r : Reg) (v : Word) : HostEffect s (s.rawWrite c r v) := by
  unfold State.rawWrite
  split
  · exact .fail s _
  · split <;> exact (HostEffect.busWrite s _ _ _).trans (.of_same rfl rfl rfl rfl rfl)

theorem HostEffect.badAccess (s : State) (aw : BitVec 12) (d : Word) (f : ModelFault) :
    HostEffect s (s.badAccess aw d f) := by
  unfold State.badAccess
  split <;> exact ((HostEffect.log s _ _).trans (.raise _ _)).trans (.of_same rfl rfl rfl rfl rfl)

theorem HostEffect.pollTarget (s : State) (f : Frame) (rest : List Frame) : HostEffect s (s.pollTarget f rest) := by
  unfold State.pollTarget
  split
  · next r h =>
    dsimp only
    split
    · exact (HostEffect.busRead s _ _ _).trans (.advance _ _ _)
    · refine ((HostEffect.busRead s _ _ _).trans (.setFsm _ _ _ _ ?_)).trans (.advance _ _ _)
      rw [busRead_stream, h]
      exact .replacing r _
  · exact .lost s rest
  · exact .lost s rest

/-- A write of an address register leaves the controller FSM of every stream alone. -/
theorem writeStreamReg_fsm (p : Params) (r : SReg) (v : Word) (y : Stream) :
    (writeStreamReg p r v y).1.fsm = y.fsm := by
  cases r <;>
    simp only [writeStreamReg, writeCrActive, writeCrInactive, writeNdtr, writePar, writeMar, enable, disable] <;>
    (repeat' split) <;> simp_all

theorem busWrite_stream_reg (s : State) (c : Ctrl) (x : StreamIx) (q : SReg) (v : Word) (c' : Ctrl) (x' : StreamIx) :
    (s.busWrite c (.stream x q) v).stream c' x' =
      if c' = c ∧ x' = x then (writeStreamReg s.params q v (s.stream c x)).1 else s.stream c' x' := by
  simp [State.busWrite, State.regWrite, stream_setStream]

theorem HostEffect.install (s : State) (f : Frame) (rest : List Frame) (old ct : Bool) (nb : Buf) :
    HostEffect s (s.install f rest old ct nb) := by
  unfold State.install
  split
  · next r h =>
    split
    · exact (HostEffect.raise s _).trans (.abort _ _ _)
    · next hok =>
      split
      · refine ((HostEffect.busWrite s _ _ _).trans (.setFsm _ _ _ _ ?_)).trans (.advance _ _ _)
        rw [busWrite_stream_reg]
        simp only [and_self, if_true, writeStreamReg_fsm, h]
        exact .install r old ct nb (by simpa using hok)
      · exact (HostEffect.busWrite s _ _ _).trans (.abort _ _ _)
  · exact .lost s rest
  · exact .lost s rest

theorem HostEffect.runOp (s : State) (op : HostOp) (f : Frame) (rest : List Frame) :
    HostEffect s (s.runOp op f rest) := by
  cases op with
  | readCr => exact (HostEffect.busRead s _ _ _).trans (.advance _ _ _)
  | writeCr mask val => exact .afterWrite s _ _ _ _
  | writeReg r v => exact .afterWrite s _ _ _ _
  | clearFlags => exact .afterWrite s _ _ _ _
  | markStarted => exact (HostEffect.setFsm s _ _ _ (.start _)).trans (.advance _ _ _)
  | release => exact (HostEffect.setFsm s _ _ _ (.release _)).trans (.advance _ _ _)
  | waitTc => exact (HostEffect.busRead s _ _ _).trans (.advance _ _ _)
  | waitTe => exact (HostEffect.busRead s _ _ _).trans (.advance _ _ _)
  | pollError => exact (HostEffect.busRead s _ _ _).trans (.advance _ _ _)
  | pollTarget => exact .pollTarget s f rest
  | inCallback old ct => exact .of_same rfl rfl rfl rfl rfl
  | install old ct nb => exact .install s f rest old ct nb

theorem HostEffect.hostTurn {s t : State} (h : s.hostTurn = some t) : HostEffect s t := by
  unfold State.hostTurn at h
  split at h
  · cases h
  · split at h
    · cases h; exact .of_same rfl rfl rfl rfl rfl
    · cases h
    · cases h; exact .runOp s _ _ _

theorem HostEffect.returnCallback {s t : State} {nb : Buf} (h : s.returnCallback nb = some t) : HostEffect s t := by
  unfold State.returnCallback at h
  split at h
  · cases h
  · split at h
    · split at h
      · next r hr =>
        cases h
        exact (HostEffect.setFsm s _ _ _ (hr ▸ .replacing r _)).trans (.of_same rfl rfl rfl rfl rfl)
      · cases h; exact .lost s _
      · cases h; exact .lost s _
    · cases h

theorem HostEffect.hostRead (s : State) (a : Word) (size : AccessSize) : HostEffect s (s.hostRead a size) := by
  unfold State.hostRead
  split
  · exact .fail s _
  · exact .of_same rfl rfl rfl rfl rfl

theorem HostEffect.hostWrite (s : State) (a : Word) (size : AccessSize) (v : Word) :
    HostEffect s (s.hostWrite a size v) := by
  unfold State.hostWrite
  split
  · exact .fail s _
  · next hw =>
    split
    · exact .fail s _
    · refine { HostEffect.refl s with mem := fun hm => memWf_memWrite hm ?_ v }
      simpa [wraps] using hw

theorem HostEffect.acquireSingle (s : State) (c : Ctrl) (x : StreamIx) (err : Option CfgError) (r : SingleRec)
    (ops : List HostOp) (h : (s.stream c x).fsm = .idle) : HostEffect s (s.acquire c x err (.single r) ops) := by
  unfold State.acquire
  split
  · exact .of_same rfl rfl rfl rfl rfl
  · exact (HostEffect.setFsm s _ _ _ (h ▸ .single r)).trans (.of_same rfl rfl rfl rfl rfl)

/-- What DB_START's preconditions establish of the buffers (R122). -/
theorem dbCheck_none {p : Params} {c : Ctrl} {x : StreamIx} {chan : Nat} {b0 b1 : Buf} {tgt : Target}
    (h : dbCheck p c x chan b0 b1 tgt = none) : b0.len = b1.len ∧ b0.width = b1.width := by
  unfold dbCheck at h
  split at h
  · cases h
  · split at h
    · cases h
    · next h1 h2 => exact ⟨by simpa using h1, by simpa using h2⟩

theorem HostEffect.acquireDouble (s : State) (c : Ctrl) (x : StreamIx) (chan : Nat) (r : DoubleRec)
    (ops : List HostOp) (h : (s.stream c x).fsm = .idle) :
    HostEffect s (s.acquire c x (dbCheck s.params c x chan r.buf0 r.buf1 r.tgt) (.double r) ops) := by
  unfold State.acquire
  split
  · exact .of_same rfl rfl rfl rfl rfl
  · next hn =>
    obtain ⟨hl, hw⟩ := dbCheck_none hn
    exact (HostEffect.setFsm s _ _ _ (h ▸ .double r hl hw)).trans (.of_same rfl rfl rfl rfl rfl)

theorem HostEffect.query (s : State) (c : Ctrl) (x : StreamIx) (mask : Word) : HostEffect s (s.query c x mask) :=
  (HostEffect.busRead s _ _ _).trans (.of_same rfl rfl rfl rfl rfl)

theorem HostEffect.needIdle {c : Ctrl} {x : StreamIx} {s k t : State}
    (hk : (s.stream c x).fsm = .idle → HostEffect s k) (h : needIdle c x s k = .next t) : HostEffect s t := by
  unfold Machine.needIdle at h
  split at h
  · next e => cases h; exact hk e
  · cases h; exact .fail s _
  · cases h; exact .fail s _

theorem HostEffect.needSingle {c : Ctrl} {x : StreamIx} {s t : State} {k : SingleRec → State}
    (hk : ∀ r, (s.stream c x).fsm = .single r → HostEffect s (k r)) (h : needSingle c x s k = .next t) :
    HostEffect s t := by
  unfold Machine.needSingle at h
  split at h
  · cases h; exact .fail s _
  · next r e => cases h; exact hk r e
  · cases h; exact .fail s _

theorem HostEffect.needDouble {c : Ctrl} {x : StreamIx} {s k t : State} (hk : HostEffect s k)
    (h : needDouble c x s k = .next t) : HostEffect s t := by
  unfold Machine.needDouble at h
  split at h
  · cases h; exact .fail s _
  · cases h; exact .fail s _
  · split at h <;> cases h
    · exact .fail s _
    · exact hk

theorem HostEffect.needChan {chan : Nat} {s t : State} {k : Host.Outcome State Fault Refusal}
    (hk : k = .next t → HostEffect s t) (h : needChan chan s k = .next t) : HostEffect s t := by
  unfold Machine.needChan at h
  split at h
  · exact hk h
  · cases h; exact .fail s _

theorem HostEffect.afterErrorOr (s : State) (r : SingleRec) (k : State) (hk : HostEffect s k) :
    HostEffect s (afterErrorOr s r k) := by
  unfold Machine.afterErrorOr
  split
  · exact .fail s _
  · exact hk

/-! ## Engine steps -/

/-- What an engine event can do to the machine: nothing but a mark, or one engine move of one stream. -/
inductive EngineEffect (s : State) (c : Ctrl) (x : StreamIx) : State → Prop where
  | mark (f : ModelFault) (hf : f = .addrWrap ∨ f = .misaligned) : EngineEffect s c x (s.raise f)
  | move (y : Stream) (h : EngineMove s.params (s.stream c x) y) : EngineEffect s c x (s.setStream c x y)

theorem elementStep_effect {c : Ctrl} {x : StreamIx} {s t : State} (hrun : (s.stream c x).engine = some .running)
    (h : elementStep c x s = .next t) : EngineEffect s c x t := by
  unfold elementStep at h
  dsimp only at h
  split at h
  · next mb pb hm hp =>
    split at h
    · cases h
    · next hc =>
      split at h
      · cases h; exact .mark _ (.inl rfl)
      · next hw =>
        split at h
        · cases h; exact .mark _ (.inr rfl)
        · cases h
          simp only [Bool.not_eq_true', Bool.not_eq_false, wraps, Bool.or_eq_true, decide_eq_true_eq] at hc hw
          exact .move _ (.element mb pb _ hrun hc hm hp (by omega) (by omega))
  · cases h

theorem execEvElement_effect {c : Ctrl} {x : StreamIx} {d : Draw} {s t : State}
    (h : execEvElement c x d s = .next t) : EngineEffect s c x t := by
  unfold execEvElement at h
  split at h
  · next he =>
    simp only [accessEnabled, Bool.and_eq_true, decide_eq_true_eq] at he
    exact elementStep_effect he.1.1 h
  · cases h

theorem engine_running {y : Stream} (h : y.engine = some .running) : crEn y.cr = true ∧ y.disabling = false := by
  unfold Stream.engine at h
  split at h <;> simp_all

theorem execEvBusError_effect {c : Ctrl} {x : StreamIx} {d : Draw} {s t : State}
    (h : execEvBusError c x d s = .next t) : EngineEffect s c x t := by
  unfold execEvBusError at h
  split at h
  · next he =>
    cases h
    simp only [accessEnabled, Bool.and_eq_true, decide_eq_true_eq] at he
    exact .move _ (.error _ (engine_running he.1.1).1)
  · cases h

theorem execEvArbError_effect {c : Ctrl} {x : StreamIx} {s t : State}
    (h : execEvArbError c x s = .next t) : EngineEffect s c x t := by
  unfold execEvArbError at h
  split at h
  · next he => cases h; exact .move _ (.error _ he)
  · cases h

theorem execEvDrainDone_effect {c : Ctrl} {x : StreamIx} {s t : State}
    (h : execEvDrainDone c x s = .next t) : EngineEffect s c x t := by
  unfold execEvDrainDone at h
  split at h
  · next he =>
    cases h
    simp only [Bool.and_eq_true, decide_eq_true_eq] at he
    exact .move _ (.drained he.1 he.2)
  · cases h

/-! ## Instructions -/

/-- Whether an instruction is an engine event, and whose. -/
def Instr.engineOf : Instr → Option (Ctrl × StreamIx)
  | .evElement c x _ => some (c, x)
  | .evBusError c x _ => some (c, x)
  | .evArbError c x => some (c, x)
  | .evDrainDone c x => some (c, x)
  | _ => none

/-- An event has an engine effect on its stream; every other instruction has a host effect. -/
theorem exec_effect {i : Instr} {s t : State} (h : exec i s = .next t) :
    (∃ c x, Instr.engineOf i = some (c, x) ∧ EngineEffect s c x t) ∨ (Instr.engineOf i = none ∧ HostEffect s t) := by
  cases i with
  | streamListen c x e => exact .inr ⟨rfl, .needIdle (fun _ => .runOp s _ _ _) h⟩
  | streamUnlisten c x e => exact .inr ⟨rfl, .needIdle (fun _ => .runOp s _ _ _) h⟩
  | streamIsComplete c x => exact .inr ⟨rfl, .needIdle (fun _ => .query s _ _ _) h⟩
  | streamHasError c x => exact .inr ⟨rfl, .needIdle (fun _ => .query s _ _ _) h⟩
  | streamReset c x => exact .inr ⟨rfl, .needIdle (fun _ => .runOp s _ _ _) h⟩
  | sbStart c x chan circ src tgt =>
    exact .inr ⟨rfl, .needChan (fun h => .needIdle (fun e => .acquireSingle s c x _ _ _ e) h) h⟩
  | sbIsComplete c x => exact .inr ⟨rfl, .needSingle (fun r _ => .afterErrorOr s r _ (.query s _ _ _)) h⟩
  | sbHasError c x =>
    refine .inr ⟨rfl, .needSingle (fun r e => .afterErrorOr s r _ ?_) h⟩
    split
    · refine (HostEffect.query s _ _ _).trans (.setFsm _ _ _ _ ?_)
      have : ((s.query c x (teBit x)).stream c x).fsm = .single r := e
      rw [this]; exact .seen r
    · exact .query s _ _ _
  | sbWait c x => exact .inr ⟨rfl, .needSingle (fun r _ => .afterErrorOr s r _ (.runOp s _ _ _)) h⟩
  | sbReset c x => exact .inr ⟨rfl, .needSingle (fun _ _ => .runOp s _ _ _) h⟩
  | dbStart c x chan b0 b1 tgt =>
    exact .inr ⟨rfl, .needChan (fun h => .needIdle (fun e => .acquireDouble s c x chan
      { buf0 := b0, buf1 := b1, tgt := tgt, chan := chan, started := false, marker := false, inReplace := none } _ e) h) h⟩
  | dbPoll c x => exact .inr ⟨rfl, .needDouble (.runOp s _ _ _) h⟩
  | dbReset c x => exact .inr ⟨rfl, .needDouble (.runOp s _ _ _) h⟩
  | evElement c x d => exact .inl ⟨c, x, rfl, execEvElement_effect h⟩
  | evBusError c x d => exact .inl ⟨c, x, rfl, execEvBusError_effect h⟩
  | evArbError c x => exact .inl ⟨c, x, rfl, execEvArbError_effect h⟩
  | evDrainDone c x => exact .inl ⟨c, x, rfl, execEvDrainDone_effect h⟩
  | _ => cases h; first | exact .inr ⟨rfl, .rawRead s _ _⟩ | exact .inr ⟨rfl, .rawWrite s _ _ _⟩

/-! ## The step -/

/-- Taking an entry off the agenda changes nothing the effects speak of. -/
theorem HostEffect.of_inputs {s t : State} {l : List Input} (h : HostEffect { s with inputs := l } t) :
    HostEffect s t :=
  have h0 : HostEffect s { s with inputs := l } := .of_same rfl rfl rfl rfl rfl
  h0.trans h

theorem HostEffect.turnOutcome {s t : State} (h : s.turnOutcome = .next t) : HostEffect s t := by
  unfold State.turnOutcome at h
  split at h
  · next e => cases h; exact .hostTurn e
  · cases h

/-- The head of the agenda is an event. -/
def State.eventNext (s : State) : Bool :=
  match s.inputs with
  | .event _ _ :: _ => true
  | _ => false

/-- The instructions the host's port decodes to are no engine events. -/
theorem decodeAw_engineOf {aw : BitVec 12} {size : AccessSize} {v : Word} {i : Instr}
    (h : decodeAw aw size v = .ok i) : Instr.engineOf i = none := by
  unfold decodeAw at h
  split at h
  · split at h
    · cases h
    · next r _ =>
      split at h <;> cases h
      · cases r with
        | isr g => cases g <;> rfl
        | ifcr g => cases g <;> rfl
        | stream x q => cases q <;> fin_cases x <;> rfl
      · cases r with
        | isr g => cases g <;> rfl
        | ifcr g => cases g <;> rfl
        | stream x q => cases q <;> fin_cases x <;> rfl
  · cases h

theorem decodeRq_engineOf {rq : BitVec 16} {ops : OpRecord} {i : Instr} (h : decodeRq rq ops = .ok i) :
    Instr.engineOf i = none := by
  unfold decodeRq requestOf at h
  split at h <;> first
    | (split at h <;> cases h <;> rfl)
    | cases h

/-- A step at an event runs the event's instruction. -/
theorem step_event {s t : State} {ev : BitVec 8} {d : Draw} {rest : List Input} (hi : s.inputs = .event ev d :: rest)
    (h : step s = .next t) : ∃ i, decodeEv ev d = .ok i ∧ exec i { s with inputs := rest } = .next t := by
  simp only [step, State.fetch, hi, fetchEvent] at h
  cases hd : decodeEv ev d with
  | ok i => rw [hd] at h; exact ⟨i, rfl, h⟩
  | error e => rw [hd] at h; cases h

/-- The word of an element event names its stream. -/
theorem decodeEv_element {ev : BitVec 8} {d d' : Draw} {c : Ctrl} {x : StreamIx}
    (h : decodeEv ev d = .ok (.evElement c x d')) : ev = evWord 1 c x := by
  simp only [decodeEv] at h
  split at h <;> cases h
  rename_i h1
  revert h1
  revert ev
  decide

/-- What a step can do: an engine effect of one stream, by an event at the agenda's head; else a host effect. -/
theorem step_effect {s t : State} (h : step s = .next t) :
    (∃ c x l, s.eventNext = true ∧ EngineEffect { s with inputs := l } c x t) ∨
      (s.eventNext = false ∧ HostEffect s t) := by
  unfold step State.fetch at h
  unfold State.eventNext
  split at h
  · next i st' hf =>
    split at hf
    · cases hf
    · next ev d rest hl =>
      left
      simp only [fetchEvent] at hf
      split at hf
      · next i' hd =>
        cases hf
        rcases exec_effect h with ⟨c, x, _, he⟩ | ⟨hn, _⟩
        · exact ⟨c, x, rest, by rw [hl], he⟩
        · simp only [decodeEv] at hd
          split at hd <;> cases hd <;> cases hn
      · cases hf
    · cases hf
    · next aw size data rest hl =>
      right
      refine ⟨by rw [hl], ?_⟩
      simp only [hostEntry, fetchAccess] at hf
      split at hf
      · split at hf
        · next i' hd =>
          cases hf
          rcases exec_effect h with ⟨c, x, hs, _⟩ | ⟨_, he⟩
          · rw [decodeAw_engineOf hd] at hs; cases hs
          · exact .of_inputs he
        · split at hf <;> cases hf
      · cases hf
    · next rq ops rest hl =>
      right
      refine ⟨by rw [hl], ?_⟩
      simp only [hostEntry, fetchRequest] at hf
      split at hf
      · split at hf
        · next i' hd =>
          cases hf
          rcases exec_effect h with ⟨c, x, hs, _⟩ | ⟨_, he⟩
          · rw [decodeRq_engineOf hd] at hs; cases hs
          · exact .of_inputs he
        · split at hf <;> cases hf
      · cases hf
    · simp only [hostEntry] at hf; split at hf <;> cases hf
    · simp only [hostEntry] at hf; split at hf <;> cases hf
    · simp only [hostEntry, fetchReturn] at hf
      split at hf
      · split at hf <;> cases hf
      · cases hf
  · next o hf =>
    subst h
    split at hf
    · next hl =>
      injection hf with hf
      exact .inr ⟨by rw [hl], .turnOutcome hf⟩
    · simp only [fetchEvent] at hf
      split at hf <;> cases hf
    · next rest hl =>
      right
      refine ⟨by rw [hl], ?_⟩
      injection hf with hf
      exact .of_inputs (.turnOutcome hf)
    · next aw size data rest hl =>
      right
      refine ⟨by rw [hl], ?_⟩
      simp only [hostEntry, fetchAccess] at hf
      split at hf
      · split at hf
        · cases hf
        · split at hf
          · cases hf; exact .of_inputs (.badAccess _ _ _ _)
          · cases hf
      · injection hf with hf; exact .turnOutcome hf
    · next rq ops rest hl =>
      right
      refine ⟨by rw [hl], ?_⟩
      simp only [hostEntry, fetchRequest] at hf
      split at hf
      · split at hf
        · cases hf
        · split at hf
          · cases hf; exact .of_inputs (.fail _ _)
          · cases hf
      · injection hf with hf; exact .turnOutcome hf
    · next a size rest hl =>
      right
      refine ⟨by rw [hl], ?_⟩
      simp only [hostEntry] at hf
      split at hf
      · cases hf; exact .of_inputs (.hostRead _ _ _)
      · injection hf with hf; exact .turnOutcome hf
    · next a size v rest hl =>
      right
      refine ⟨by rw [hl], ?_⟩
      simp only [hostEntry] at hf
      split at hf
      · cases hf; exact .of_inputs (.hostWrite _ _ _ _)
      · injection hf with hf; exact .turnOutcome hf
    · next nb rest hl =>
      right
      refine ⟨by rw [hl], ?_⟩
      simp only [hostEntry, fetchReturn] at hf
      split at hf
      · split at hf
        · next u hu => cases hf; exact .of_inputs (.returnCallback hu)
        · cases hf
      · injection hf with hf; exact .turnOutcome hf

end Sys2Proof.Machine
end

