-- ==== Sys2Proof/Laws/PerInstr.lean ====
section
/-! SUPPORT. Facts about every instruction as syntax, one lemma per constructor: its encoding fits its row of
spec/opcode_table.json. -/

namespace Sys2Proof.Laws.TableRow

/-- A row of spec/opcode_table.json: its mask and its match value. -/
structure Row where
  mask : Nat
  pattern : Nat
  deriving DecidableEq, Repr

/-- The row of an instruction. -/
def rowOf : Instr → Row
  | .rdLISR _ => { mask := 0xbff, pattern := 0x0 }
  | .wrLISR _ _ => { mask := 0xbff, pattern := 0x800 }
  | .rdHISR _ => { mask := 0xbff, pattern := 0x4 }
  | .wrHISR _ _ => { mask := 0xbff, pattern := 0x804 }
  | .rdLIFCR _ => { mask := 0xbff, pattern := 0x8 }
  | .wrLIFCR _ _ => { mask := 0xbff, pattern := 0x808 }
  | .rdHIFCR _ => { mask := 0xbff, pattern := 0xc }
  | .wrHIFCR _ _ => { mask := 0xbff, pattern := 0x80c }
  | .rdS0CR _ => { mask := 0xbff, pattern := 0x10 }
  | .wrS0CR _ _ => { mask := 0xbff, pattern := 0x810 }
  | .rdS0NDTR _ => { mask := 0xbff, pattern := 0x14 }
  | .wrS0NDTR _ _ => { mask := 0xbff, pattern := 0x814 }
  | .rdS0PAR _ => { mask := 0xbff, pattern := 0x18 }
  | .wrS0PAR _ _ => { mask := 0xbff, pattern := 0x818 }
  | .rdS0M0AR _ => { mask := 0xbff, pattern := 0x1c }
  | .wrS0M0AR _ _ => { mask := 0xbff, pattern := 0x81c }
  | .rdS0M1AR _ => { mask := 0xbff, pattern := 0x20 }
  | .wrS0M1AR _ _ => { mask := 0xbff, pattern := 0x820 }
  | .rdS0FCR _ => { mask := 0xbff, pattern := 0x24 }
  | .wrS0FCR _ _ => { mask := 0xbff, pattern := 0x824 }
  | .rdS1CR _ => { mask := 0xbff, pattern := 0x28 }
  | .wrS1CR _ _ => { mask := 0xbff, pattern := 0x828 }
  | .rdS1NDTR _ => { mask := 0xbff, pattern := 0x2c }
  | .wrS1NDTR _ _ => { mask := 0xbff, pattern := 0x82c }
  | .rdS1PAR _ => { mask := 0xbff, pattern := 0x30 }
  | .wrS1PAR _ _ => { mask := 0xbff, pattern := 0x830 }
  | .rdS1M0AR _ => { mask := 0xbff, pattern := 0x34 }
  | .wrS1M0AR _ _ => { mask := 0xbff, pattern := 0x834 }
  | .rdS1M1AR _ => { mask := 0xbff, pattern := 0x38 }
  | .wrS1M1AR _ _ => { mask := 0xbff, pattern := 0x838 }
  | .rdS1FCR _ => { mask := 0xbff, pattern := 0x3c }
  | .wrS1FCR _ _ => { mask := 0xbff, pattern := 0x83c }
  | .rdS2CR _ => { mask := 0xbff, pattern := 0x40 }
  | .wrS2CR _ _ => { mask := 0xbff, pattern := 0x840 }
  | .rdS2NDTR _ => { mask := 0xbff, pattern := 0x44 }
  | .wrS2NDTR _ _ => { mask := 0xbff, pattern := 0x844 }
  | .rdS2PAR _ => { mask := 0xbff, pattern := 0x48 }
  | .wrS2PAR _ _ => { mask := 0xbff, pattern := 0x848 }
  | .rdS2M0AR _ => { mask := 0xbff, pattern := 0x4c }
  | .wrS2M0AR _ _ => { mask := 0xbff, pattern := 0x84c }
  | .rdS2M1AR _ => { mask := 0xbff, pattern := 0x50 }
  | .wrS2M1AR _ _ => { mask := 0xbff, pattern := 0x850 }
  | .rdS2FCR _ => { mask := 0xbff, pattern := 0x54 }
  | .wrS2FCR _ _ => { mask := 0xbff, pattern := 0x854 }
  | .rdS3CR _ => { mask := 0xbff, pattern := 0x58 }
  | .wrS3CR _ _ => { mask := 0xbff, pattern := 0x858 }
  | .rdS3NDTR _ => { mask := 0xbff, pattern := 0x5c }
  | .wrS3NDTR _ _ => { mask := 0xbff, pattern := 0x85c }
  | .rdS3PAR _ => { mask := 0xbff, pattern := 0x60 }
  | .wrS3PAR _ _ => { mask := 0xbff, pattern := 0x860 }
  | .rdS3M0AR _ => { mask := 0xbff, pattern := 0x64 }
  | .wrS3M0AR _ _ => { mask := 0xbff, pattern := 0x864 }
  | .rdS3M1AR _ => { mask := 0xbff, pattern := 0x68 }
  | .wrS3M1AR _ _ => { mask := 0xbff, pattern := 0x868 }
  | .rdS3FCR _ => { mask := 0xbff, pattern := 0x6c }
  | .wrS3FCR _ _ => { mask := 0xbff, pattern := 0x86c }
  | .rdS4CR _ => { mask := 0xbff, pattern := 0x70 }
  | .wrS4CR _ _ => { mask := 0xbff, pattern := 0x870 }
  | .rdS4NDTR _ => { mask := 0xbff, pattern := 0x74 }
  | .wrS4NDTR _ _ => { mask := 0xbff, pattern := 0x874 }
  | .rdS4PAR _ => { mask := 0xbff, pattern := 0x78 }
  | .wrS4PAR _ _ => { mask := 0xbff, pattern := 0x878 }
  | .rdS4M0AR _ => { mask := 0xbff, pattern := 0x7c }
  | .wrS4M0AR _ _ => { mask := 0xbff, pattern := 0x87c }
  | .rdS4M1AR _ => { mask := 0xbff, pattern := 0x80 }
  | .wrS4M1AR _ _ => { mask := 0xbff, pattern := 0x880 }
  | .rdS4FCR _ => { mask := 0xbff, pattern := 0x84 }
  | .wrS4FCR _ _ => { mask := 0xbff, pattern := 0x884 }
  | .rdS5CR _ => { mask := 0xbff, pattern := 0x88 }
  | .wrS5CR _ _ => { mask := 0xbff, pattern := 0x888 }
  | .rdS5NDTR _ => { mask := 0xbff, pattern := 0x8c }
  | .wrS5NDTR _ _ => { mask := 0xbff, pattern := 0x88c }
  | .rdS5PAR _ => { mask := 0xbff, pattern := 0x90 }
  | .wrS5PAR _ _ => { mask := 0xbff, pattern := 0x890 }
  | .rdS5M0AR _ => { mask := 0xbff, pattern := 0x94 }
  | .wrS5M0AR _ _ => { mask := 0xbff, pattern := 0x894 }
  | .rdS5M1AR _ => { mask := 0xbff, pattern := 0x98 }
  | .wrS5M1AR _ _ => { mask := 0xbff, pattern := 0x898 }
  | .rdS5FCR _ => { mask := 0xbff, pattern := 0x9c }
  | .wrS5FCR _ _ => { mask := 0xbff, pattern := 0x89c }
  | .rdS6CR _ => { mask := 0xbff, pattern := 0xa0 }
  | .wrS6CR _ _ => { mask := 0xbff, pattern := 0x8a0 }
  | .rdS6NDTR _ => { mask := 0xbff, pattern := 0xa4 }
  | .wrS6NDTR _ _ => { mask := 0xbff, pattern := 0x8a4 }
  | .rdS6PAR _ => { mask := 0xbff, pattern := 0xa8 }
  | .wrS6PAR _ _ => { mask := 0xbff, pattern := 0x8a8 }
  | .rdS6M0AR _ => { mask := 0xbff, pattern := 0xac }
  | .wrS6M0AR _ _ => { mask := 0xbff, pattern := 0x8ac }
  | .rdS6M1AR _ => { mask := 0xbff, pattern := 0xb0 }
  | .wrS6M1AR _ _ => { mask := 0xbff, pattern := 0x8b0 }
  | .rdS6FCR _ => { mask := 0xbff, pattern := 0xb4 }
  | .wrS6FCR _ _ => { mask := 0xbff, pattern := 0x8b4 }
  | .rdS7CR _ => { mask := 0xbff, pattern := 0xb8 }
  | .wrS7CR _ _ => { mask := 0xbff, pattern := 0x8b8 }
  | .rdS7NDTR _ => { mask := 0xbff, pattern := 0xbc }
  | .wrS7NDTR _ _ => { mask := 0xbff, pattern := 0x8bc }
  | .rdS7PAR _ => { mask := 0xbff, pattern := 0xc0 }
  | .wrS7PAR _ _ => { mask := 0xbff, pattern := 0x8c0 }
  | .rdS7M0AR _ => { mask := 0xbff, pattern := 0xc4 }
  | .wrS7M0AR _ _ => { mask := 0xbff, pattern := 0x8c4 }
  | .rdS7M1AR _ => { mask := 0xbff, pattern := 0xc8 }
  | .wrS7M1AR _ _ => { mask := 0xbff, pattern := 0x8c8 }
  | .rdS7FCR _ => { mask := 0xbff, pattern := 0xcc }
  | .wrS7FCR _ _ => { mask := 0xbff, pattern := 0x8cc }
  | .streamListen _ _ _ => { mask := 0xf0fe, pattern := 0x1000 }
  | .streamUnlisten _ _ _ => { mask := 0xf0fe, pattern := 0x2000 }
  | .streamIsComplete _ _ => { mask := 0xf0ff, pattern := 0x3000 }
  | .streamHasError _ _ => { mask := 0xf0ff, pattern := 0x4000 }
  | .streamReset _ _ => { mask := 0xf0ff, pattern := 0x5000 }
  | .sbStart _ _ _ _ _ _ => { mask := 0xf0f0, pattern := 0x6000 }
  | .sbIsComplete _ _ => { mask := 0xf0ff, pattern := 0x7000 }
  | .sbHasError _ _ => { mask := 0xf0ff, pattern := 0x8000 }
  | .sbWait _ _ => { mask := 0xf0ff, pattern := 0x9000 }
  | .sbReset _ _ => { mask := 0xf0ff, pattern := 0xa000 }
  | .dbStart _ _ _ _ _ _ => { mask := 0xf0f8, pattern := 0xb000 }
  | .dbPoll _ _ => { mask := 0xf0ff, pattern := 0xc000 }
  | .dbReset _ _ => { mask := 0xf0ff, pattern := 0xd000 }
  | .evElement _ _ _ => { mask := 0xf0, pattern := 0x10 }
  | .evBusError _ _ _ => { mask := 0xf0, pattern := 0x20 }
  | .evArbError _ _ => { mask := 0xf0, pattern := 0x30 }
  | .evDrainDone _ _ => { mask := 0xf0, pattern := 0x40 }

/-- The instruction word of an agenda entry that carries one. -/
def wordOf : Input → Option Nat
  | .access aw _ _ => some aw.toNat
  | .request rq _ => some rq.toNat
  | .event ev _ => some ev.toNat
  | .turn => none
  | .memRead _ _ => none
  | .memWrite _ _ _ => none
  | .callbackReturn _ => none

/-- The bits of an instruction's word that its row fixes. -/
def fixedBits (i : Instr) : Option Nat := (wordOf (encode i)).map fun n => n &&& (rowOf i).mask

/-- The word a well-formed instruction is encoded as has its row's fixed bits. -/
def Statement (i : Instr) : Prop := i.wf = true → fixedBits i = some (rowOf i).pattern

/-- An instruction whose word and row are known has its row's fixed bits. -/
theorem of_word {i : Instr} {n m p : Nat} (hw : wordOf (encode i) = some n) (hr : rowOf i = { mask := m, pattern := p })
    (h : n &&& m = p) : fixedBits i = some (rowOf i).pattern := by
  rw [fixedBits, hw, hr, Option.map_some, h]

/-- The fixed bits of an access word: W and OFF. -/
theorem aw_fixed (w : Bool) (c : Ctrl) (r : Reg) :
    (awWord w c r).toNat &&& 0xbff = (if w then 0x800 else 0) + r.offset := by
  cases r with
  | isr g => cases w <;> cases c <;> cases g <;> rfl
  | ifcr g => cases w <;> cases c <;> cases g <;> rfl
  | stream x q => cases w <;> cases c <;> cases q <;> fin_cases x <;> rfl

/-- The fixed bits of a request word without arguments. -/
theorem rq_fixed (op : Fin 16) (c : Ctrl) (s : StreamIx) : (rqWord op.val c s 0).toNat &&& 0xf0ff = 0x1000 * op.val := by
  revert op s
  cases c <;> decide

/-- The fixed bits of an event word. -/
theorem ev_fixed (code : Fin 16) (c : Ctrl) (s : StreamIx) : (evWord code.val c s).toNat &&& 0xf0 = 0x10 * code.val := by
  revert code s
  cases c <;> decide

theorem rdLISR (c : Ctrl) : Statement (.rdLISR c) := fun _ =>
  of_word rfl rfl (aw_fixed false c (.isr .low))

theorem wrLISR (c : Ctrl) (v : Word) : Statement (.wrLISR c v) := fun _ =>
  of_word rfl rfl (aw_fixed true c (.isr .low))

theorem rdHISR (c : Ctrl) : Statement (.rdHISR c) := fun _ =>
  of_word rfl rfl (aw_fixed false c (.isr .high))

theorem wrHISR (c : Ctrl) (v : Word) : Statement (.wrHISR c v) := fun _ =>
  of_word rfl rfl (aw_fixed true c (.isr .high))

theorem rdLIFCR (c : Ctrl) : Statement (.rdLIFCR c) := fun _ =>
  of_word rfl rfl (aw_fixed false c (.ifcr .low))

theorem wrLIFCR (c : Ctrl) (v : Word) : Statement (.wrLIFCR c v) := fun _ =>
  of_word rfl rfl (aw_fixed true c (.ifcr .low))

theorem rdHIFCR (c : Ctrl) : Statement (.rdHIFCR c) := fun _ =>
  of_word rfl rfl (aw_fixed false c (.ifcr .high))

theorem wrHIFCR (c : Ctrl) (v : Word) : Statement (.wrHIFCR c v) := fun _ =>
  of_word rfl rfl (aw_fixed true c (.ifcr .high))

theorem rdS0CR (c : Ctrl) : Statement (.rdS0CR c) := fun _ =>
  of_word rfl rfl (aw_fixed false c (.stream 0 .cr))

theorem wrS0CR (c : Ctrl) (v : Word) : Statement (.wrS0CR c v) := fun _ =>
  of_word rfl rfl (aw_fixed true c (.stream 0 .cr))

theorem rdS0NDTR (c : Ctrl) : Statement (.rdS0NDTR c) := fun _ =>
  of_word rfl rfl (aw_fixed false c (.stream 0 .ndtr))

theorem wrS0NDTR (c : Ctrl) (v : Word) : Statement (.wrS0NDTR c v) := fun _ =>
  of_word rfl rfl (aw_fixed true c (.stream 0 .ndtr))

theorem rdS0PAR (c : Ctrl) : Statement (.rdS0PAR c) := fun _ =>
  of_word rfl rfl (aw_fixed false c (.stream 0 .par))

theorem wrS0PAR (c : Ctrl) (v : Word) : Statement (.wrS0PAR c v) := fun _ =>
  of_word rfl rfl (aw_fixed true c (.stream 0 .par))

theorem rdS0M0AR (c : Ctrl) : Statement (.rdS0M0AR c) := fun _ =>
  of_word rfl rfl (aw_fixed false c (.stream 0 .m0ar))

theorem wrS0M0AR (c : Ctrl) (v : Word) : Statement (.wrS0M0AR c v) := fun _ =>
  of_word rfl rfl (aw_fixed true c (.stream 0 .m0ar))

theorem rdS0M1AR (c : Ctrl) : Statement (.rdS0M1AR c) := fun _ =>
  of_word rfl rfl (aw_fixed false c (.stream 0 .m1ar))

theorem wrS0M1AR (c : Ctrl) (v : Word) : Statement (.wrS0M1AR c v) := fun _ =>
  of_word rfl rfl (aw_fixed true c (.stream 0 .m1ar))

theorem rdS0FCR (c : Ctrl) : Statement (.rdS0FCR c) := fun _ =>
  of_word rfl rfl (aw_fixed false c (.stream 0 .fcr))

theorem wrS0FCR (c : Ctrl) (v : Word) : Statement (.wrS0FCR c v) := fun _ =>
  of_word rfl rfl (aw_fixed true c (.stream 0 .fcr))

theorem rdS1CR (c : Ctrl) : Statement (.rdS1CR c) := fun _ =>
  of_word rfl rfl (aw_fixed false c (.stream 1 .cr))

theorem wrS1CR (c : Ctrl) (v : Word) : Statement (.wrS1CR c v) := fun _ =>
  of_word rfl rfl (aw_fixed true c (.stream 1 .cr))

theorem rdS1NDTR (c : Ctrl) : Statement (.rdS1NDTR c) := fun _ =>
  of_word rfl rfl (aw_fixed false c (.stream 1 .ndtr))

theorem wrS1NDTR (c : Ctrl) (v : Word) : Statement (.wrS1NDTR c v) := fun _ =>
  of_word rfl rfl (aw_fixed true c (.stream 1 .ndtr))

theorem rdS1PAR (c : Ctrl) : Statement (.rdS1PAR c) := fun _ =>
  of_word rfl rfl (aw_fixed false c (.stream 1 .par))

theorem wrS1PAR (c : Ctrl) (v : Word) : Statement (.wrS1PAR c v) := fun _ =>
  of_word rfl rfl (aw_fixed true c (.stream 1 .par))

theorem rdS1M0AR (c : Ctrl) : Statement (.rdS1M0AR c) := fun _ =>
  of_word rfl rfl (aw_fixed false c (.stream 1 .m0ar))

theorem wrS1M0AR (c : Ctrl) (v : Word) : Statement (.wrS1M0AR c v) := fun _ =>
  of_word rfl rfl (aw_fixed true c (.stream 1 .m0ar))

theorem rdS1M1AR (c : Ctrl) : Statement (.rdS1M1AR c) := fun _ =>
  of_word rfl rfl (aw_fixed false c (.stream 1 .m1ar))

theorem wrS1M1AR (c : Ctrl) (v : Word) : Statement (.wrS1M1AR c v) := fun _ =>
  of_word rfl rfl (aw_fixed true c (.stream 1 .m1ar))

theorem rdS1FCR (c : Ctrl) : Statement (.rdS1FCR c) := fun _ =>
  of_word rfl rfl (aw_fixed false c (.stream 1 .fcr))

theorem wrS1FCR (c : Ctrl) (v : Word) : Statement (.wrS1FCR c v) := fun _ =>
  of_word rfl rfl (aw_fixed true c (.stream 1 .fcr))

theorem rdS2CR (c : Ctrl) : Statement (.rdS2CR c) := fun _ =>
  of_word rfl rfl (aw_fixed false c (.stream 2 .cr))

theorem wrS2CR (c : Ctrl) (v : Word) : Statement (.wrS2CR c v) := fun _ =>
  of_word rfl rfl (aw_fixed true c (.stream 2 .cr))

theorem rdS2NDTR (c : Ctrl) : Statement (.rdS2NDTR c) := fun _ =>
  of_word rfl rfl (aw_fixed false c (.stream 2 .ndtr))

theorem wrS2NDTR (c : Ctrl) (v : Word) : Statement (.wrS2NDTR c v) := fun _ =>
  of_word rfl rfl (aw_fixed true c (.stream 2 .ndtr))

theorem rdS2PAR (c : Ctrl) : Statement (.rdS2PAR c) := fun _ =>
  of_word rfl rfl (aw_fixed false c (.stream 2 .par))

theorem wrS2PAR (c : Ctrl) (v : Word) : Statement (.wrS2PAR c v) := fun _ =>
  of_word rfl rfl (aw_fixed true c (.stream 2 .par))

theorem rdS2M0AR (c : Ctrl) : Statement (.rdS2M0AR c) := fun _ =>
  of_word rfl rfl (aw_fixed false c (.stream 2 .m0ar))

theorem wrS2M0AR (c : Ctrl) (v : Word) : Statement (.wrS2M0AR c v) := fun _ =>
  of_word rfl rfl (aw_fixed true c (.stream 2 .m0ar))

theorem rdS2M1AR (c : Ctrl) : Statement (.rdS2M1AR c) := fun _ =>
  of_word rfl rfl (aw_fixed false c (.stream 2 .m1ar))

theorem wrS2M1AR (c : Ctrl) (v : Word) : Statement (.wrS2M1AR c v) := fun _ =>
  of_word rfl rfl (aw_fixed true c (.stream 2 .m1ar))

theorem rdS2FCR (c : Ctrl) : Statement (.rdS2FCR c) := fun _ =>
  of_word rfl rfl (aw_fixed false c (.stream 2 .fcr))

theorem wrS2FCR (c : Ctrl) (v : Word) : Statement (.wrS2FCR c v) := fun _ =>
  of_word rfl rfl (aw_fixed true c (.stream 2 .fcr))

theorem rdS3CR (c : Ctrl) : Statement (.rdS3CR c) := fun _ =>
  of_word rfl rfl (aw_fixed false c (.stream 3 .cr))

theorem wrS3CR (c : Ctrl) (v : Word) : Statement (.wrS3CR c v) := fun _ =>
  of_word rfl rfl (aw_fixed true c (.stream 3 .cr))

theorem rdS3NDTR (c : Ctrl) : Statement (.rdS3NDTR c) := fun _ =>
  of_word rfl rfl (aw_fixed false c (.stream 3 .ndtr))

theorem wrS3NDTR (c : Ctrl) (v : Word) : Statement (.wrS3NDTR c v) := fun _ =>
  of_word rfl rfl (aw_fixed true c (.stream 3 .ndtr))

theorem rdS3PAR (c : Ctrl) : Statement (.rdS3PAR c) := fun _ =>
  of_word rfl rfl (aw_fixed false c (.stream 3 .par))

theorem wrS3PAR (c : Ctrl) (v : Word) : Statement (.wrS3PAR c v) := fun _ =>
  of_word rfl rfl (aw_fixed true c (.stream 3 .par))

theorem rdS3M0AR (c : Ctrl) : Statement (.rdS3M0AR c) := fun _ =>
  of_word rfl rfl (aw_fixed false c (.stream 3 .m0ar))

theorem wrS3M0AR (c : Ctrl) (v : Word) : Statement (.wrS3M0AR c v) := fun _ =>
  of_word rfl rfl (aw_fixed true c (.stream 3 .m0ar))

theorem rdS3M1AR (c : Ctrl) : Statement (.rdS3M1AR c) := fun _ =>
  of_word rfl rfl (aw_fixed false c (.stream 3 .m1ar))

theorem wrS3M1AR (c : Ctrl) (v : Word) : Statement (.wrS3M1AR c v) := fun _ =>
  of_word rfl rfl (aw_fixed true c (.stream 3 .m1ar))

theorem rdS3FCR (c : Ctrl) : Statement (.rdS3FCR c) := fun _ =>
  of_word rfl rfl (aw_fixed false c (.stream 3 .fcr))

theorem wrS3FCR (c : Ctrl) (v : Word) : Statement (.wrS3FCR c v) := fun _ =>
  of_word rfl rfl (aw_fixed true c (.stream 3 .fcr))

theorem rdS4CR (c : Ctrl) : Statement (.rdS4CR c) := fun _ =>
  of_word rfl rfl (aw_fixed false c (.stream 4 .cr))

theorem wrS4CR (c : Ctrl) (v : Word) : Statement (.wrS4CR c v) := fun _ =>
  of_word rfl rfl (aw_fixed true c (.stream 4 .cr))

theorem rdS4NDTR (c : Ctrl) : Statement (.rdS4NDTR c) := fun _ =>
  of_word rfl rfl (aw_fixed false c (.stream 4 .ndtr))

theorem wrS4NDTR (c : Ctrl) (v : Word) : Statement (.wrS4NDTR c v) := fun _ =>
  of_word rfl rfl (aw_fixed true c (.stream 4 .ndtr))

theorem rdS4PAR (c : Ctrl) : Statement (.rdS4PAR c) := fun _ =>
  of_word rfl rfl (aw_fixed false c (.stream 4 .par))

theorem wrS4PAR (c : Ctrl) (v : Word) : Statement (.wrS4PAR c v) := fun _ =>
  of_word rfl rfl (aw_fixed true c (.stream 4 .par))

theorem rdS4M0AR (c : Ctrl) : Statement (.rdS4M0AR c) := fun _ =>
  of_word rfl rfl (aw_fixed false c (.stream 4 .m0ar))

theorem wrS4M0AR (c : Ctrl) (v : Word) : Statement (.wrS4M0AR c v) := fun _ =>
  of_word rfl rfl (aw_fixed true c (.stream 4 .m0ar))

theorem rdS4M1AR (c : Ctrl) : Statement (.rdS4M1AR c) := fun _ =>
  of_word rfl rfl (aw_fixed false c (.stream 4 .m1ar))

theorem wrS4M1AR (c : Ctrl) (v : Word) : Statement (.wrS4M1AR c v) := fun _ =>
  of_word rfl rfl (aw_fixed true c (.stream 4 .m1ar))

theorem rdS4FCR (c : Ctrl) : Statement (.rdS4FCR c) := fun _ =>
  of_word rfl rfl (aw_fixed false c (.stream 4 .fcr))

theorem wrS4FCR (c : Ctrl) (v : Word) : Statement (.wrS4FCR c v) := fun _ =>
  of_word rfl rfl (aw_fixed true c (.stream 4 .fcr))

theorem rdS5CR (c : Ctrl) : Statement (.rdS5CR c) := fun _ =>
  of_word rfl rfl (aw_fixed false c (.stream 5 .cr))

theorem wrS5CR (c : Ctrl) (v : Word) : Statement (.wrS5CR c v) := fun _ =>
  of_word rfl rfl (aw_fixed true c (.stream 5 .cr))

theorem rdS5NDTR (c : Ctrl) : Statement (.rdS5NDTR c) := fun _ =>
  of_word rfl rfl (aw_fixed false c (.stream 5 .ndtr))

theorem wrS5NDTR (c : Ctrl) (v : Word) : Statement (.wrS5NDTR c v) := fun _ =>
  of_word rfl rfl (aw_fixed true c (.stream 5 .ndtr))

theorem rdS5PAR (c : Ctrl) : Statement (.rdS5PAR c) := fun _ =>
  of_word rfl rfl (aw_fixed false c (.stream 5 .par))

theorem wrS5PAR (c : Ctrl) (v : Word) : Statement (.wrS5PAR c v) := fun _ =>
  of_word rfl rfl (aw_fixed true c (.stream 5 .par))

theorem rdS5M0AR (c : Ctrl) : Statement (.rdS5M0AR c) := fun _ =>
  of_word rfl rfl (aw_fixed false c (.stream 5 .m0ar))

theorem wrS5M0AR (c : Ctrl) (v : Word) : Statement (.wrS5M0AR c v) := fun _ =>
  of_word rfl rfl (aw_fixed true c (.stream 5 .m0ar))

theorem rdS5M1AR (c : Ctrl) : Statement (.rdS5M1AR c) := fun _ =>
  of_word rfl rfl (aw_fixed false c (.stream 5 .m1ar))

theorem wrS5M1AR (c : Ctrl) (v : Word) : Statement (.wrS5M1AR c v) := fun _ =>
  of_word rfl rfl (aw_fixed true c (.stream 5 .m1ar))

theorem rdS5FCR (c : Ctrl) : Statement (.rdS5FCR c) := fun _ =>
  of_word rfl rfl (aw_fixed false c (.stream 5 .fcr))

theorem wrS5FCR (c : Ctrl) (v : Word) : Statement (.wrS5FCR c v) := fun _ =>
  of_word rfl rfl (aw_fixed true c (.stream 5 .fcr))

theorem rdS6CR (c : Ctrl) : Statement (.rdS6CR c) := fun _ =>
  of_word rfl rfl (aw_fixed false c (.stream 6 .cr))

theorem wrS6CR (c : Ctrl) (v : Word) : Statement (.wrS6CR c v) := fun _ =>
  of_word rfl rfl (aw_fixed true c (.stream 6 .cr))

theorem rdS6NDTR (c : Ctrl) : Statement (.rdS6NDTR c) := fun _ =>
  of_word rfl rfl (aw_fixed false c (.stream 6 .ndtr))

theorem wrS6NDTR (c : Ctrl) (v : Word) : Statement (.wrS6NDTR c v) := fun _ =>
  of_word rfl rfl (aw_fixed true c (.stream 6 .ndtr))

theorem rdS6PAR (c : Ctrl) : Statement (.rdS6PAR c) := fun _ =>
  of_word rfl rfl (aw_fixed false c (.stream 6 .par))

theorem wrS6PAR (c : Ctrl) (v : Word) : Statement (.wrS6PAR c v) := fun _ =>
  of_word rfl rfl (aw_fixed true c (.stream 6 .par))

theorem rdS6M0AR (c : Ctrl) : Statement (.rdS6M0AR c) := fun _ =>
  of_word rfl rfl (aw_fixed false c (.stream 6 .m0ar))

theorem wrS6M0AR (c : Ctrl) (v : Word) : Statement (.wrS6M0AR c v) := fun _ =>
  of_word rfl rfl (aw_fixed true c (.stream 6 .m0ar))

theorem rdS6M1AR (c : Ctrl) : Statement (.rdS6M1AR c) := fun _ =>
  of_word rfl rfl (aw_fixed false c (.stream 6 .m1ar))

theorem wrS6M1AR (c : Ctrl) (v : Word) : Statement (.wrS6M1AR c v) := fun _ =>
  of_word rfl rfl (aw_fixed true c (.stream 6 .m1ar))

theorem rdS6FCR (c : Ctrl) : Statement (.rdS6FCR c) := fun _ =>
  of_word rfl rfl (aw_fixed false c (.stream 6 .fcr))

theorem wrS6FCR (c : Ctrl) (v : Word) : Statement (.wrS6FCR c v) := fun _ =>
  of_word rfl rfl (aw_fixed true c (.stream 6 .fcr))

theorem rdS7CR (c : Ctrl) : Statement (.rdS7CR c) := fun _ =>
  of_word rfl rfl (aw_fixed false c (.stream 7 .cr))

theorem wrS7CR (c : Ctrl) (v : Word) : Statement (.wrS7CR c v) := fun _ =>
  of_word rfl rfl (aw_fixed true c (.stream 7 .cr))

theorem rdS7NDTR (c : Ctrl) : Statement (.rdS7NDTR c) := fun _ =>
  of_word rfl rfl (aw_fixed false c (.stream 7 .ndtr))

theorem wrS7NDTR (c : Ctrl) (v : Word) : Statement (.wrS7NDTR c v) := fun _ =>
  of_word rfl rfl (aw_fixed true c (.stream 7 .ndtr))

theorem rdS7PAR (c : Ctrl) : Statement (.rdS7PAR c) := fun _ =>
  of_word rfl rfl (aw_fixed false c (.stream 7 .par))

theorem wrS7PAR (c : Ctrl) (v : Word) : Statement (.wrS7PAR c v) := fun _ =>
  of_word rfl rfl (aw_fixed true c (.stream 7 .par))

theorem rdS7M0AR (c : Ctrl) : Statement (.rdS7M0AR c) := fun _ =>
  of_word rfl rfl (aw_fixed false c (.stream 7 .m0ar))

theorem wrS7M0AR (c : Ctrl) (v : Word) : Statement (.wrS7M0AR c v) := fun _ =>
  of_word rfl rfl (aw_fixed true c (.stream 7 .m0ar))

theorem rdS7M1AR (c : Ctrl) : Statement (.rdS7M1AR c) := fun _ =>
  of_word rfl rfl (aw_fixed false c (.stream 7 .m1ar))

theorem wrS7M1AR (c : Ctrl) (v : Word) : Statement (.wrS7M1AR c v) := fun _ =>
  of_word rfl rfl (aw_fixed true c (.stream 7 .m1ar))

theorem rdS7FCR (c : Ctrl) : Statement (.rdS7FCR c) := fun _ =>
  of_word rfl rfl (aw_fixed false c (.stream 7 .fcr))

theorem wrS7FCR (c : Ctrl) (v : Word) : Statement (.wrS7FCR c v) := fun _ =>
  of_word rfl rfl (aw_fixed true c (.stream 7 .fcr))

theorem streamListen (c : Ctrl) (s : StreamIx) (e : TransferEvent) : Statement (.streamListen c s e) := fun _ => by
  have key : ∀ y : StreamIx, (rqWord 1 c y e.arg).toNat &&& 0xf0fe = 0x1000 := by
    cases c <;> cases e <;> decide
  exact of_word rfl rfl (key s)

theorem streamUnlisten (c : Ctrl) (s : StreamIx) (e : TransferEvent) : Statement (.streamUnlisten c s e) := fun _ => by
  have key : ∀ y : StreamIx, (rqWord 2 c y e.arg).toNat &&& 0xf0fe = 0x2000 := by
    cases c <;> cases e <;> decide
  exact of_word rfl rfl (key s)

theorem streamIsComplete (c : Ctrl) (s : StreamIx) : Statement (.streamIsComplete c s) := fun _ =>
  of_word rfl rfl (rq_fixed 3 c s)

theorem streamHasError (c : Ctrl) (s : StreamIx) : Statement (.streamHasError c s) := fun _ =>
  of_word rfl rfl (rq_fixed 4 c s)

theorem streamReset (c : Ctrl) (s : StreamIx) : Statement (.streamReset c s) := fun _ =>
  of_word rfl rfl (rq_fixed 5 c s)

theorem sbStart (c : Ctrl) (s : StreamIx) (chan : Nat) (circ : Bool) (src : Buf) (tgt : Target) :
    Statement (.sbStart c s chan circ src tgt) := fun h => by
  have key : ∀ (y : StreamIx) (k : Fin 8),
      (rqWord 6 c y (k.val + if circ then 8 else 0)).toNat &&& 0xf0f0 = 0x6000 := by
    cases c <;> cases circ <;> decide
  exact of_word rfl rfl (key s ⟨chan, by simpa [Instr.wf, chanOk] using h⟩)

theorem sbIsComplete (c : Ctrl) (s : StreamIx) : Statement (.sbIsComplete c s) := fun _ =>
  of_word rfl rfl (rq_fixed 7 c s)

theorem sbHasError (c : Ctrl) (s : StreamIx) : Statement (.sbHasError c s) := fun _ =>
  of_word rfl rfl (rq_fixed 8 c s)

theorem sbWait (c : Ctrl) (s : StreamIx) : Statement (.sbWait c s) := fun _ =>
  of_word rfl rfl (rq_fixed 9 c s)

theorem sbReset (c : Ctrl) (s : StreamIx) : Statement (.sbReset c s) := fun _ =>
  of_word rfl rfl (rq_fixed 10 c s)

theorem dbStart (c : Ctrl) (s : StreamIx) (chan : Nat) (buf0 : Buf) (buf1 : Buf) (tgt : Target) :
    Statement (.dbStart c s chan buf0 buf1 tgt) := fun h => by
  have key : ∀ (y : StreamIx) (k : Fin 8), (rqWord 11 c y k.val).toNat &&& 0xf0f8 = 0xb000 := by
    cases c <;> decide
  exact of_word rfl rfl (key s ⟨chan, by simpa [Instr.wf, chanOk] using h⟩)

theorem dbPoll (c : Ctrl) (s : StreamIx) : Statement (.dbPoll c s) := fun _ =>
  of_word rfl rfl (rq_fixed 12 c s)

theorem dbReset (c : Ctrl) (s : StreamIx) : Statement (.dbReset c s) := fun _ =>
  of_word rfl rfl (rq_fixed 13 c s)

theorem evElement (c : Ctrl) (s : StreamIx) (d : Draw) : Statement (.evElement c s d) := fun _ =>
  of_word rfl rfl (ev_fixed 1 c s)

theorem evBusError (c : Ctrl) (s : StreamIx) (d : Draw) : Statement (.evBusError c s d) := fun _ =>
  of_word rfl rfl (ev_fixed 2 c s)

theorem evArbError (c : Ctrl) (s : StreamIx) : Statement (.evArbError c s) := fun _ =>
  of_word rfl rfl (ev_fixed 3 c s)

theorem evDrainDone (c : Ctrl) (s : StreamIx) : Statement (.evDrainDone c s) := fun _ =>
  of_word rfl rfl (ev_fixed 4 c s)

end Sys2Proof.Laws.TableRow
end

