-- ==== Sys2Proof/Tests/Slice0.lean ====
section
/-! SUPPORT. Small tests: ill-formed terms refused, words written out from the spec's encodings, single steps against
the vectors of spec/95_test_vectors.md, and for every statement with hypotheses a witness that meets them. -/

namespace Sys2Proof.Machine

/-! ## Small machines -/

/-- Reset, with one stream replaced. -/
def test.machine (c : Ctrl) (x : StreamIx) (y : Stream) : State := State.reset.setStream c x y

/-- The next state of an outcome, if it is one. -/
def test.next (o : Host.Outcome State Fault Refusal) : Option State :=
  match o with
  | .next t => some t
  | .fault _ => none
  | .refused _ => none

/-- A buffer of two halfwords. -/
def test.bufA : Buf := { addr := 0x20000100, width := 2, len := 2 }

/-- Another of the same shape. -/
def test.bufB : Buf := { addr := 0x20000200, width := 2, len := 2 }

/-- A target two bytes wide. -/
def test.tgt : Target := { addr := 0x40007408, width := 2, periph := 0 }

/-- A single-transfer record, started, without an error seen. -/
def test.single : SingleRec :=
  { src := test.bufA, tgt := test.tgt, chan := 7, circ := false, started := true, errSeen := false }

/-- A double-transfer record, started, draining buffer 0, outside its callback. -/
def test.double : DoubleRec :=
  { buf0 := test.bufA, buf1 := test.bufB, tgt := test.tgt, chan := 7, started := true, marker := false,
    inReplace := none }

/-- An enabled one-shot stream of four bytes from 0x20000000 (SxCR 0x441). -/
def test.running : Stream :=
  { Stream.reset with cr := 0x441, ndtr := 4, reload := 4, par := 0x40011004, m0ar := 0x20000000, m1ar := 0x20000200 }

/-- An enabled stream in double-buffer mode, SxCR as P2 of spec/95_test_vectors.md leaves it. -/
def test.doubling : Stream :=
  { Stream.reset with
    cr := 0x0E042D41
    ndtr := 2
    reload := 2
    par := 0x40007408
    m0ar := 0x20000100
    m1ar := 0x20000200
    fsm := .double test.double }

/-- The parameters with a disable that drains. -/
def test.drainParams : Params := { Params.spec with disableMode := .drain }

/-! ## Well-formedness -/

/-- A channel id of 8 is refused, by SB_START. -/
theorem test_ill_formed_sbStart : (Instr.sbStart .dma1 0 8 false test.bufA test.tgt).wf = false := by decide

/-- A channel id of 8 is refused, by DB_START. -/
theorem test_ill_formed_dbStart : (Instr.dbStart .dma1 0 8 test.bufA test.bufB test.tgt).wf = false := by decide

/-- Channel id 7 is well-formed. -/
theorem test_well_formed : (Instr.sbStart .dma1 0 7 true test.bufA test.tgt).wf = true := by decide

/-! ## Decoding: words written out from R60 to R72 -/

/-- W=0 C=0 OFF=0x000, W=1 C=0 OFF=0x004, W=0 C=0 OFF=0x00C, W=1 C=1 OFF=0x008 (R60, R61). -/
theorem test_decode_shared :
    decode (.access 0b000000000000 .word 0) = .ok (.rdLISR .dma1) ∧
      decode (.access 0b100000000100 .word 5) = .ok (.wrHISR .dma1 5) ∧
      decode (.access 0b000000001100 .word 0) = .ok (.rdHIFCR .dma1) ∧
      decode (.access 0b110000001000 .word 5) = .ok (.wrLIFCR .dma2 5) := ⟨rfl, rfl, rfl, rfl⟩

/-- The six registers of a stream, at 0x10 + 0x18 * s (R61): S0CR, S7CR, S6NDTR, S3PAR, S3M0AR, S4M1AR, S7FCR. -/
theorem test_decode_stream :
    decode (.access 0x410 .word 0) = .ok (.rdS0CR .dma2) ∧ decode (.access 0x8B8 .word 1) = .ok (.wrS7CR .dma1 1) ∧
      decode (.access 0x0A4 .word 0) = .ok (.rdS6NDTR .dma1) ∧
      decode (.access 0x860 .word 3) = .ok (.wrS3PAR .dma1 3) ∧
      decode (.access 0x064 .word 0) = .ok (.rdS3M0AR .dma1) ∧
      decode (.access 0xC80 .word 9) = .ok (.wrS4M1AR .dma2 9) ∧
      decode (.access 0xCCC .word 2) = .ok (.wrS7FCR .dma2 2) := ⟨rfl, rfl, rfl, rfl, rfl, rfl, rfl⟩

/-- OP, C, S, A (R69, R70): every request code, on DMA2 stream 5. -/
theorem test_decode_requests (o : OpRecord) :
    decode (.request 0b0001110100000000 o) = .ok (.streamListen .dma2 5 .halfTransfer) ∧
      decode (.request 0b0010110100000001 o) = .ok (.streamUnlisten .dma2 5 .transferComplete) ∧
      decode (.request 0b0011110100000000 o) = .ok (.streamIsComplete .dma2 5) ∧
      decode (.request 0b0100110100000000 o) = .ok (.streamHasError .dma2 5) ∧
      decode (.request 0b0101110100000000 o) = .ok (.streamReset .dma2 5) ∧
      decode (.request 0b0110110100001110 o) = .ok (.sbStart .dma2 5 6 true o.b0 o.tgt) ∧
      decode (.request 0b0111110100000000 o) = .ok (.sbIsComplete .dma2 5) ∧
      decode (.request 0b1000110100000000 o) = .ok (.sbHasError .dma2 5) ∧
      decode (.request 0b1001110100000000 o) = .ok (.sbWait .dma2 5) ∧
      decode (.request 0b1010110100000000 o) = .ok (.sbReset .dma2 5) ∧
      decode (.request 0b1011110100000110 o) = .ok (.dbStart .dma2 5 6 o.b0 o.b1 o.tgt) ∧
      decode (.request 0b1100110100000000 o) = .ok (.dbPoll .dma2 5) ∧
      decode (.request 0b1101110100000000 o) = .ok (.dbReset .dma2 5) :=
  ⟨rfl, rfl, rfl, rfl, rfl, rfl, rfl, rfl, rfl, rfl, rfl, rfl, rfl⟩

/-- EV, C, S (R72): every event, on DMA1 stream 6. -/
theorem test_decode_events (d : Draw) :
    decode (.event 0b00010110 d) = .ok (.evElement .dma1 6 d) ∧
      decode (.event 0b00100110 d) = .ok (.evBusError .dma1 6 d) ∧
      decode (.event 0b00110110 d) = .ok (.evArbError .dma1 6) ∧
      decode (.event 0b01000110 d) = .ok (.evDrainDone .dma1 6) := ⟨rfl, rfl, rfl, rfl⟩

/-- What is no instruction (V-AW, V-RQ). -/
theorem test_decode_rejects :
    decode (.access 0x0D0 .word 0) = .error .unmapped ∧ decode (.access 0x7FC .word 0) = .error .unmapped ∧
      decode (.access 0x012 .word 0) = .error .badAccessWidth ∧ decode (.access 0x010 .half 0) = .error .badAccessWidth ∧
      decode (.request 0x0000 OpRecord.none) = .error .badRequest ∧
      decode (.request 0xE000 OpRecord.none) = .error .badRequest ∧
      decode (.request 0x1002 OpRecord.none) = .error .badRequest ∧
      decode (.request 0x6010 OpRecord.none) = .error .badRequest ∧
      decode (.request 0xB408 OpRecord.none) = .error .badRequest ∧
      decode (.event 0x50 Draw.ok) = .error .noSuchEvent := ⟨rfl, rfl, rfl, rfl, rfl, rfl, rfl, rfl, rfl, rfl⟩

/-- A table word runs as the first instruction after reset: S7CR of DMA1 reads 0. -/
theorem test_table_word :
    decodeTableWord 12 0x0B8 = some (.rdS7CR .dma1) ∧
      (test.next (step (State.reset.withFetchWord 12 0x0B8))).map (fun t => t.ret) = some (.word 0) := by
  decide

/-! ## Register accesses (V-ISR, V-IFCR, V-CR, V-REG) -/

/-- DMA1 S0 TC, S1 HT, S2 TE, S3 TC: LISR reads 0x08080420. -/
theorem test_isr_read :
    (test.next (exec (.rdLISR .dma1)
      ((((State.reset.setStream .dma1 0 { Stream.reset with tcif := true }).setStream .dma1 1
        { Stream.reset with htif := true }).setStream .dma1 2 { Stream.reset with teif := true }).setStream .dma1 3
          { Stream.reset with tcif := true }))).map (fun t => t.ret) = some (.word 0x08080420) := by
  decide

/-- HISR 0x0C000000, a write of 0x0A000000 to HIFCR: HISR 0x04000000. -/
theorem test_ifcr_write :
    (test.next (exec (.wrHIFCR .dma2 0x0A000000)
      (test.machine .dma2 7 { Stream.reset with tcif := true, htif := true }))).map
        (fun t => (t.isr .dma2 .high, t.faults)) = some (0x04000000, []) := by
  decide

/-- Bit 12 of LIFCR is reserved: F3, and nothing is cleared. -/
theorem test_ifcr_reserved :
    (test.next (exec (.wrLIFCR .dma1 0x00001010)
      (test.machine .dma1 0 { Stream.reset with htif := true }))).map
        (fun t => (t.isr .dma1 .low, t.faults)) = some (0x10, [.reservedBit]) := by
  decide

/-- From reset, EN alone is F9, checked before F10. -/
theorem test_enable_order :
    (test.next (exec (.wrS0CR .dma1 1) State.reset)).map
      (fun t => ((t.stream .dma1 0).cr, t.faults)) = some (0, [.unmodelledConfig]) := by
  decide

/-- NDTR 4 and SxCR 0x441: enabled, reload 4. -/
theorem test_enable :
    (test.next (exec (.wrS0CR .dma1 0x441) (test.machine .dma1 0 { Stream.reset with ndtr := 4 }))).map
      (fun t => ((t.stream .dma1 0).cr, (t.stream .dma1 0).reload, t.faults)) = some (0x441, 4, []) := by
  decide

/-- While active, CHSEL is protected: F1. -/
theorem test_protected :
    (test.next (exec (.wrS7CR .dma2 0x06000441)
      (test.machine .dma2 7 { test.running with cr := 0x08000441 }))).map
        (fun t => ((t.stream .dma2 7).cr, t.faults)) = some (0x08000441, [.protectedWrite]) := by
  decide

/-- While active, a stale CT with EN 0 disables and keeps CT. -/
theorem test_disable_keeps_ct :
    (test.next (exec (.wrS4CR .dma1 0x0E042D40)
      (test.machine .dma1 4 { test.doubling with cr := 0x0E0C2D41, fsm := .idle }))).map
        (fun t => ((t.stream .dma1 4).cr, t.faults)) = some (0x0E0C2D40, []) := by
  decide

/-- A count above 16 bits is F3. -/
theorem test_count_reserved :
    (test.next (exec (.wrS7NDTR .dma2 0x00010000) State.reset)).map
      (fun t => ((t.stream .dma2 7).ndtr, t.faults)) = some (0, [.reservedBit]) := by
  decide

/-- DBM 1 and CT 1: M0AR is written, M1AR is locked. -/
theorem test_address_lock :
    (test.next (exec (.wrS4M0AR .dma1 0x20000300)
      (test.machine .dma1 4 { test.doubling with cr := 0x0E0C2D41, fsm := .idle }))).map
        (fun t => ((t.stream .dma1 4).m0ar, t.faults)) = some (0x20000300, []) ∧
    (test.next (exec (.wrS4M1AR .dma1 0x20000400)
      (test.machine .dma1 4 { test.doubling with cr := 0x0E0C2D41, fsm := .idle }))).map
        (fun t => ((t.stream .dma1 4).m1ar, t.faults)) = some (0x20000200, [.lockedAddrWrite]) := by
  decide

/-- SxFCR reads as 0 with F8. -/
theorem test_fcr :
    (test.next (exec (.rdS0FCR .dma1) State.reset)).map (fun t => (t.ret, t.faults)) =
      some (.word 0, [.fcrAccess]) := by
  decide

/-! ## Engine events (V-ENG) -/

/-- reload 4, NDTR 3, width 1: one byte from 0x20000001, HTIF at remaining 2. -/
theorem test_element :
    (test.next (exec (.evElement .dma1 0 Draw.ok)
      { test.machine .dma1 0 { test.running with ndtr := 3 } with mem := [(0x20000001, 0x42)] })).map
        (fun t => ((t.stream .dma1 0).outlog, (t.stream .dma1 0).ndtr, (t.stream .dma1 0).htif)) =
      some ([{ addr := 0x40011004, size := 1, value := 0x42 }], 2, true) := by
  decide

/-- The last element of a double-buffered pass reads two bytes at M0AR + 2, sets TCIF, reloads and toggles CT. -/
theorem test_boundary :
    (test.next (exec (.evElement .dma1 4 Draw.ok)
      { test.machine .dma1 4 { test.doubling with ndtr := 1 } with mem := [(0x20000102, 0x22), (0x20000103, 0x33)] })).map
        (fun t => ((t.stream .dma1 4).outlog, (t.stream .dma1 4).ndtr, (t.stream .dma1 4).tcif,
          (t.stream .dma1 4).cr)) =
      some ([{ addr := 0x40007408, size := 2, value := 0x3322 }], 2, true, 0x0E0C2D41) := by
  decide

/-- CT 1 with DBM 0 reads at M0AR. -/
theorem test_ct_without_dbm :
    (test.next (exec (.evElement .dma1 0 Draw.ok)
      { test.machine .dma1 0 { test.running with cr := 0x00080441 } with mem := [(0x20000000, 0x41)] })).map
        (fun t => (t.stream .dma1 0).outlog) = some [{ addr := 0x40011004, size := 1, value := 0x41 }] := by
  decide

/-- 0xFFFFFFFE, width 1, index 2: F13 and nothing moved. -/
theorem test_element_wraps :
    (test.next (exec (.evElement .dma1 0 Draw.ok)
      (test.machine .dma1 0 { test.running with m0ar := 0xFFFFFFFE, ndtr := 2 }))).map
        (fun t => ((t.stream .dma1 0).ndtr, (t.stream .dma1 0).outlog, t.faults)) = some (2, [], [.addrWrap]) := by
  decide

/-- A misaligned peripheral address: F12. -/
theorem test_element_misaligned :
    (test.next (exec (.evElement .dma1 4 Draw.ok)
      (test.machine .dma1 4 { test.doubling with par := 0x40007409 }))).map
        (fun t => ((t.stream .dma1 4).outlog, t.faults)) = some ([], [.misaligned]) := by
  decide

/-- A bus error: TEIF, EN 0, NDTR kept. -/
theorem test_bus_error :
    (test.next (exec (.evBusError .dma1 0 { dreq := true, answer := .error })
      (test.machine .dma1 0 { test.running with ndtr := 3 }))).map
        (fun t => ((t.stream .dma1 0).teif, (t.stream .dma1 0).cr, (t.stream .dma1 0).ndtr,
          (t.stream .dma1 0).teCause)) = some (true, 0x440, 3, .bus) := by
  decide

/-- An arbitration error, and the drain. -/
theorem test_arb_and_drain :
    (test.next (exec (.evArbError .dma1 0) (test.machine .dma1 0 test.running))).map
        (fun t => ((t.stream .dma1 0).teif, (t.stream .dma1 0).teCause)) = some (true, .arb) ∧
      (test.next (exec (.evDrainDone .dma1 0)
        { test.machine .dma1 0 { test.running with disabling := true } with params := test.drainParams })).map
        (fun t => ((t.stream .dma1 0).cr, (t.stream .dma1 0).disabling, (t.stream .dma1 0).tcif)) =
          some (0x440, false, true) := by
  decide

/-! ## Requests (V-RQ, V-SB, V-DB) -/

/-- LISTEN ht on SxCR 0x10 writes 0x18, two host steps. -/
theorem test_listen :
    ((test.next (exec (.streamListen .dma1 0 .halfTransfer) (test.machine .dma1 0 { Stream.reset with cr := 0x10 }))).bind
      (fun t => t.hostTurns 1)).map (fun t => ((t.stream .dma1 0).cr, t.trace.map (fun a => (a.aw, a.data)))) =
        some (0x18, [(0x010, 0x10), (0x810, 0x18)]) := by
  decide

/-- UNLISTEN tc on SxCR 0x08 writes the same value. -/
theorem test_unlisten :
    ((test.next (exec (.streamUnlisten .dma1 0 .transferComplete)
      (test.machine .dma1 0 { Stream.reset with cr := 0x08 }))).bind
      (fun t => t.hostTurns 1)).map (fun t => (t.stream .dma1 0).cr) = some 0x08 := by
  decide

/-- IS_COMPLETE on TCIF; HAS_ERROR with HTIF only. -/
theorem test_queries :
    (test.next (exec (.streamIsComplete .dma2 7) (test.machine .dma2 7 { Stream.reset with tcif := true }))).map
        (fun t => t.ret) = some (.bool true) ∧
      (test.next (exec (.streamHasError .dma1 1) (test.machine .dma1 1 { Stream.reset with htif := true }))).map
        (fun t => t.ret) = some (.bool false) := by
  decide

/-- W2: STREAM_RESET on DMA2 stream 7, EN 1, NDTR 3, HISR 0x0E000000. -/
theorem test_stream_reset :
    ((test.next (exec (.streamReset .dma2 7)
      (test.machine .dma2 7 { test.running with ndtr := 3, tcif := true, htif := true, teif := true }))).bind
      (fun t => t.hostTurns 2)).map
        (fun t => (crEn (t.stream .dma2 7).cr, (t.stream .dma2 7).ndtr, t.isr .dma2 .high,
          t.trace.map (fun a => (a.aw, a.data)))) =
      some (false, 3, 0x04000000, [(0x4B8, 0x441), (0xCB8, 0x440), (0xC0C, 0x0A000000)]) := by
  decide

/-- W9: width 3 is CE1 and leaves the stream idle. -/
theorem test_sbStart_width :
    (test.next (exec (.sbStart .dma1 0 3 false { addr := 0x20000000, width := 3, len := 4 }
      { addr := 0x40013000, width := 3, periph := 0 }) State.reset)).map
        (fun t => (t.ret, t.trace, (t.stream .dma1 0).fsm)) = some (.cfgError .unsupportedWidth, [], .idle) := by
  decide

/-- P1: sixteen host steps enable DMA2 stream 7 with SxCR 0x08000441. -/
theorem test_sbStart :
    ((test.next (exec (.sbStart .dma2 7 4 false { addr := 0x20000000, width := 1, len := 4 }
      { addr := 0x40011004, width := 1, periph := 0 }) State.reset)).bind (fun t => t.hostTurns 16)).map
        (fun t => ((t.stream .dma2 7).cr, (t.stream .dma2 7).reload, t.trace.length, t.ret)) =
      some (0x08000441, 4, 15, .transfer) := by
  decide

/-- SB_HAS_ERROR records the error, and a second query is F18. -/
theorem test_sbHasError :
    ((test.next (exec (.sbHasError .dma1 0)
      (test.machine .dma1 0 { Stream.reset with teif := true, fsm := .single test.single }))).bind
      (fun t => test.next (exec (.sbIsComplete .dma1 0) t))).map (fun t => (t.ret, t.faults)) =
        some (.faulted .afterError, [.afterError]) := by
  decide

/-- SB_WAIT with TCIF and TEIF: Success; the stream is idle. -/
theorem test_sbWait :
    ((test.next (exec (.sbWait .dma1 0)
      (test.machine .dma1 0 { Stream.reset with tcif := true, teif := true, fsm := .single test.single }))).bind
      (fun t => t.hostTurns 4)).map (fun t => (t.ret, (t.stream .dma1 0).fsm, t.isr .dma1 .low)) =
        some (.success, .idle, 0) := by
  decide

/-- SB_RESET on an active stream keeps NDTR. -/
theorem test_sbReset :
    ((test.next (exec (.sbReset .dma1 0)
      (test.machine .dma1 0 { test.running with ndtr := 2, fsm := .single test.single }))).bind
      (fun t => t.hostTurns 3)).map
        (fun t => ((t.stream .dma1 0).cr, (t.stream .dma1 0).ndtr, (t.stream .dma1 0).fsm)) =
      some (0x440, 2, .idle) := by
  decide

/-- W4: unequal lengths are CE2. -/
theorem test_dbStart_lengths :
    (test.next (exec (.dbStart .dma1 4 7 test.bufA { test.bufB with len := 3 } test.tgt) State.reset)).map
      (fun t => (t.ret, t.trace)) = some (.cfgError .lengthMismatch, []) := by
  decide

/-- P2: twenty-one host steps enable DMA1 stream 4 with SxCR 0x0E042D41. -/
theorem test_dbStart :
    ((test.next (exec (.dbStart .dma1 4 7 test.bufA test.bufB test.tgt) State.reset)).bind
      (fun t => t.hostTurns 21)).map
        (fun t => ((t.stream .dma1 4).cr, (t.stream .dma1 4).m0ar, (t.stream .dma1 4).m1ar, t.trace.length)) =
      some (0x0E042D41, 0x20000100, 0x20000200, 20) := by
  decide

/-- W6: CT 1 against marker 0: the vacated buffer's address register, and no other, takes the replacement. -/
theorem test_dbPoll :
    ((((test.next (exec (.dbPoll .dma1 4)
      (test.machine .dma1 4 { test.doubling with cr := 0x0E0C2D41, tcif := true, htif := true }))).bind
      (fun t => t.hostTurns 1)).bind (fun t => t.returnCallback { addr := 0x20000300, width := 2, len := 2 })).bind
      (fun t => t.hostTurns 1)).map
        (fun t => ((t.stream .dma1 4).m0ar, (t.stream .dma1 4).m1ar, t.ret,
          t.trace.map (fun a => (a.aw, a.data)))) =
      some (0x20000300, 0x20000200, .cont, [(0x004, 0x30), (0x070, 0x0E0C2D41), (0x87C, 0x20000300)]) := by
  decide

/-- P2 step 9: DB_RESET keeps DBM, CIRC and HTIF. -/
theorem test_dbReset :
    ((test.next (exec (.dbReset .dma1 4)
      (test.machine .dma1 4 { test.doubling with tcif := true, htif := true }))).bind
      (fun t => t.hostTurns 3)).map
        (fun t => ((t.stream .dma1 4).cr, t.isr .dma1 .high, (t.stream .dma1 4).fsm)) =
      some (0x0E042D40, 0x10, .idle) := by
  decide

/-! ## Witnesses: encoding and the step

Each theorem below gives concrete operands that meet every hypothesis of one statement, clause by clause, at a boundary
where a clause has a range. -/

/-- Reset with an agenda. -/
def test.agenda (l : List Input) : State := { State.reset with inputs := l }

/-- A machine inside a request with one host step left. -/
def test.midway (l : List Input) : State :=
  { State.reset with
    inputs := l
    stack := [{ c := .dma1, s := 0, t := 0, ops := [.release], result := .stream }] }

theorem test_witness_DecodeEncodeAgree :
    (Instr.sbStart .dma2 7 7 true test.bufA test.tgt).wf = true ∧ (Instr.dbPoll .dma1 0).wf = true := by decide

theorem test_witness_DecodedIsWellFormed :
    decode (.request 0x600F OpRecord.none) = .ok (.sbStart .dma1 0 7 true Buf.none Target.none) ∧
      decode (.request 0xB007 OpRecord.none) = .ok (.dbStart .dma1 0 7 Buf.none Buf.none Target.none) := ⟨rfl, rfl⟩

theorem test_witness_StepRunsDecodedInstruction :
    ((test.agenda [.access 0x000 .word 0]).takes (.access 0x000 .word 0) [] ∧
      decode (.access 0x000 .word 0) = .ok (.rdLISR .dma1)) ∧
    ((test.agenda [.request 0x3000 OpRecord.none]).takes (.request 0x3000 OpRecord.none) [] ∧
      decode (.request 0x3000 OpRecord.none) = .ok (.streamIsComplete .dma1 0)) ∧
    ((test.midway [.event 0x10 Draw.ok]).takes (.event 0x10 Draw.ok) [] ∧
      decode (.event 0x10 Draw.ok) = .ok (.evElement .dma1 0 Draw.ok)) :=
  ⟨⟨⟨rfl, .inr rfl⟩, rfl⟩, ⟨⟨rfl, .inr rfl⟩, rfl⟩, ⟨⟨rfl, .inl ⟨_, _, rfl⟩⟩, rfl⟩⟩

theorem test_witness_StepContinuesRequest :
    ((test.midway [.turn]).inputs = [.turn] ∧
      ∃ t, ({ test.midway [.turn] with inputs := [] } : State).hostTurn = some t) ∧
    ((test.midway []).inputs = [] ∧ ∃ t, (test.midway []).hostTurn = some t) ∧
    ((test.midway [.access 0 .word 0]).inputs = [.access 0 .word 0] ∧
      (test.midway [.access 0 .word 0]).hostReady = false ∧
      ∃ t, (test.midway [.access 0 .word 0]).hostTurn = some t) :=
  ⟨⟨rfl, _, rfl⟩, ⟨rfl, _, rfl⟩, ⟨rfl, rfl, _, rfl⟩⟩

theorem test_witness_BadAccessWordFaults :
    ((test.agenda [.access 0x012 .word 0]).takes (.access 0x012 .word 0) [] ∧ (0x012 : BitVec 12).toNat % 4 ≠ 0) ∧
    ((test.agenda [.access 0x000 .half 0]).takes (.access 0x000 .half 0) [] ∧ AccessSize.half ≠ .word) ∧
    ((test.agenda [.access 0x0D0 .word 0]).takes (.access 0x0D0 .word 0) [] ∧
      (0x0D0 : BitVec 12).toNat % 4 = 0 ∧ 0x0D0 ≤ (0x0D0 : BitVec 12).toNat % 1024) ∧
    ((test.agenda [.access 0xFFC .word 0]).takes (.access 0xFFC .word 0) [] ∧
      (0xFFC : BitVec 12).toNat % 4 = 0 ∧ 0x0D0 ≤ (0xFFC : BitVec 12).toNat % 1024) :=
  ⟨⟨⟨rfl, .inr rfl⟩, by decide⟩, ⟨⟨rfl, .inr rfl⟩, by decide⟩, ⟨⟨rfl, .inr rfl⟩, by decide⟩,
    ⟨⟨rfl, .inr rfl⟩, by decide⟩⟩

theorem test_witness_BadRequestWordFaults :
    ∀ rq : BitVec 16, rq ∈ [0x0FFF, 0xE000, 0x1002, 0x2002, 0x3001, 0xD001, 0x6010, 0xB008] →
      (test.agenda [.request rq OpRecord.none]).takes (.request rq OpRecord.none) [] ∧
      ((rq.toNat / 4096 = 0 ∨ 14 ≤ rq.toNat / 4096) ∨
        (rq.toNat / 4096 ∈ [1, 2] ∧ 2 ≤ rq.toNat % 256) ∨
        (rq.toNat / 4096 ∈ [3, 4, 5, 7, 8, 9, 10, 12, 13] ∧ rq.toNat % 256 ≠ 0) ∨
        (rq.toNat / 4096 = 6 ∧ 16 ≤ rq.toNat % 256) ∨
        (rq.toNat / 4096 = 11 ∧ 8 ≤ rq.toNat % 256)) := by
  intro rq h
  refine ⟨⟨rfl, .inr rfl⟩, ?_⟩
  simp only [List.mem_cons, List.not_mem_nil, or_false] at h
  rcases h with rfl | rfl | rfl | rfl | rfl | rfl | rfl | rfl <;> decide

theorem test_witness_EventWordsDecode :
    (test.agenda [.event 0x0F Draw.ok]).inputs = [.event 0x0F Draw.ok] ∧ (0x0F : BitVec 8).toNat / 16 = 0 ∧
      5 ≤ (0x50 : BitVec 8).toNat / 16 ∧ (0x10 : BitVec 8) = evWord 1 .dma1 0 ∧ (0x2F : BitVec 8) = evWord 2 .dma2 7 ∧
      (0x30 : BitVec 8) = evWord 3 .dma1 0 ∧ (0x4F : BitVec 8) = evWord 4 .dma2 7 := by
  decide

/-- A write of DMA2's S7CR decodes; its address is 0x40026400 + 0x0B8 (R50, R60, R61). -/
theorem test_witness_AccessWordNamesPhysicalAddress :
    decode (.access 0xCB8 .word 0) = .ok (.wrS7CR .dma2 0) ∧ awAddr 0xCB8 = 0x400264B8 ∧ awAddr 0x010 = 0x40026010 :=
  ⟨rfl, by decide, by decide⟩

/-! ## Witnesses: registers -/

theorem test_witness_StatusReadShowsFlags : groupOf 3 = .low ∧ groupOf 4 = .high := by decide

theorem test_witness_ClearWriteClearsOnes :
    (0x00000002 : Word) &&& ~~~(0x0F7D0F7D : Word) ≠ 0 ∧ (0x0F7D0F7D : Word) &&& ~~~(0x0F7D0F7D : Word) = 0 := by decide

/-- Streams whose registers the host may reach, and one a running callback bars. -/
theorem test_witness_ControlReadShowsActive :
    ((test.machine .dma1 0 test.running).stream .dma1 0).fsm.replacing = false ∧
      (State.reset.stream .dma1 0).fsm.replacing = false := by decide

theorem test_witness_ControlWriteWhileInactive :
    (State.reset.stream .dma1 0).fsm.replacing = false ∧ (State.reset.stream .dma1 0).cr.getLsbD 0 = false ∧
      (State.reset.stream .dma1 0).disabling = false ∧
      ((0x00100000 : Word) &&& 0xF0100000 ≠ 0) ∧
      ((0x08000440 : Word) &&& 0xF0100000 = 0 ∧ (0x08000440 : Word).getLsbD 0 = false) ∧
      ((0x00002441 : Word) &&& 0xF0100000 = 0 ∧ (0x00002441 : Word).getLsbD 0 = true ∧
        (0x00002441 : Word).extractLsb' 13 2 ≠ (0x00002441 : Word).extractLsb' 11 2) ∧
      ((0x00000441 : Word) &&& 0xF0100000 = 0 ∧ (0x00000441 : Word).getLsbD 0 = true ∧
        ¬((0x00000441 : Word).extractLsb' 6 2 ≠ 1 ∨ (0x00000441 : Word).extractLsb' 11 2 = 3 ∨
          (0x00000441 : Word).extractLsb' 13 2 = 3 ∨
          (0x00000441 : Word).extractLsb' 13 2 ≠ (0x00000441 : Word).extractLsb' 11 2 ∨
          (0x00000441 : Word).getLsbD 5 = true ∨ (0x00000441 : Word).getLsbD 15 = true ∨
          (0x00000441 : Word).extractLsb' 21 2 ≠ 0 ∨ (0x00000441 : Word).extractLsb' 23 2 ≠ 0 ∨
          ((0x00000441 : Word).getLsbD 18 = true ∧ (0x00000441 : Word).getLsbD 8 = false)) ∧
        (State.reset.stream .dma1 0).ndtr = 0) ∧
      (({ Stream.reset with ndtr := 4, tcif := true } : Stream).ndtr ≠ 0 ∧
        ({ Stream.reset with ndtr := 4, tcif := true } : Stream).tcif = true) ∧
      (({ Stream.reset with ndtr := 4, htif := true } : Stream).ndtr ≠ 0 ∧
        ({ Stream.reset with ndtr := 4, htif := true } : Stream).tcif = false ∧
        ({ Stream.reset with ndtr := 4, htif := true } : Stream).teif = false ∧
        State.reset.params.staleHt = .allow) := by
  decide

theorem test_witness_ControlWriteWhileActive :
    test.running.fsm.replacing = false ∧ test.running.cr.getLsbD 0 = true ∧ test.running.disabling = false ∧
      ((0x80000441 : Word) &&& 0xF0100000 ≠ 0) ∧
      ((0x00000461 : Word) &&& 0xF0100000 = 0 ∧ (0x00000461 : Word) &&& 0x0FE7FFE0 ≠ test.running.cr &&& 0x0FE7FFE0) ∧
      ((0x00080451 : Word) &&& 0xF0100000 = 0 ∧ (0x00080451 : Word) &&& 0x0FE7FFE0 = test.running.cr &&& 0x0FE7FFE0 ∧
        (0x00080451 : Word).getLsbD 0 = true) ∧
      ((0x00000440 : Word) &&& 0xF0100000 = 0 ∧ (0x00000440 : Word) &&& 0x0FE7FFE0 = test.running.cr &&& 0x0FE7FFE0 ∧
        (0x00000440 : Word).getLsbD 0 = false) := by
  decide

theorem test_witness_CountRegisterReadsAndWrites :
    65536 ≤ (0x00010000 : Word).toNat ∧ (0x0000FFFF : Word).toNat < 65536 ∧
      (test.running.fsm.replacing = false ∧ test.running.cr.getLsbD 0 = true) ∧
      (Stream.reset.fsm.replacing = false ∧ Stream.reset.cr.getLsbD 0 = false ∧ Stream.reset.disabling = false) := by
  decide

theorem test_witness_PeripheralAddressReadsAndWrites :
    (test.running.fsm.replacing = false ∧ test.running.cr.getLsbD 0 = true) ∧
      (Stream.reset.fsm.replacing = false ∧ Stream.reset.cr.getLsbD 0 = false ∧ Stream.reset.disabling = false) := by
  decide

/-- Not active; active without DBM; active with DBM and CT 0, and CT 1. -/
theorem test_witness_BufferAddressesReadAndLock :
    ¬(Stream.reset.cr.getLsbD 0 = true ∨ Stream.reset.disabling = true) ∧
      (test.running.cr.getLsbD 0 = true ∧ test.running.cr.getLsbD 18 = false) ∧
      (test.doubling.fsm.replacing = false ∧ test.doubling.cr.getLsbD 0 = true ∧ test.doubling.cr.getLsbD 18 = true ∧
        test.doubling.cr.getLsbD 19 = false) ∧
      ((0x0E0C2D41 : Word).getLsbD 18 = true ∧ (0x0E0C2D41 : Word).getLsbD 19 = true) := by
  decide

theorem test_witness_FifoControlAccessFaults : (State.reset.stream .dma2 7).fsm.replacing = false := by decide

theorem test_witness_StreamWriteFrame :
    (∃ t, exec (wrInstr .dma1 (.stream 0 .cr) 0x441) (test.machine .dma1 0 { Stream.reset with ndtr := 4 }) = .next t) ∧
      ∃ t, exec (wrInstr .dma1 (.stream 0 .par) 4) (test.machine .dma1 0 test.running) = .next t :=
  ⟨⟨_, rfl⟩, ⟨_, rfl⟩⟩

/-! ## Witnesses: events -/

/-- A byte stream with three elements left, and the base of each clause: a wrap at 0xFFFFFFFF with two bytes, a
misaligned address, more than one element, the last of a circular pass, the last of a one-shot pass. -/
theorem test_witness_ElementMovesOneValue :
    (test.running.cr.getLsbD 0 = true ∧ test.running.disabling = false ∧ 1 ≤ test.running.ndtr.toNat ∧
      test.running.ndtr.toNat ≤ test.running.reload.toNat ∧ (test.running.cr.extractLsb' 13 2).toNat < 3 ∧
      (test.running.cr.extractLsb' 11 2).toNat < 3 ∧ test.running.cr.getLsbD 10 = true) ∧
    (4294967296 < (0xFFFFFFFF : Word).toNat + 2) ∧
    ((0x20000001 : Word).toNat + 2 ≤ 4294967296 ∧ (0x20000001 : Word).toNat % 2 ≠ 0) ∧
    (test.running.m0ar.toNat + 0 * 1 + 1 ≤ 4294967296 ∧ (test.running.m0ar.toNat + 0 * 1) % 1 = 0 ∧
      1 < test.running.ndtr.toNat) ∧
    (({ test.doubling with ndtr := 1 } : Stream).ndtr.toNat = 1 ∧ test.doubling.cr.getLsbD 8 = true ∧
      (test.doubling.m0ar.toNat + 1 * 2) % 2 = 0 ∧ test.doubling.par.toNat % 2 = 0) ∧
    (({ test.running with ndtr := 1 } : Stream).ndtr.toNat = 1 ∧ test.running.cr.getLsbD 8 = false) ∧
    ((0xFFFFFFFC : Word).toNat + 4 ≤ 4294967296 ∧ (0xFFFFFFFC : Word).toNat % 4 = 0) := by
  decide

theorem test_witness_TransferErrorStopsStream :
    test.running.cr.getLsbD 0 = true ∧ test.running.disabling = false := by decide

theorem test_witness_DrainDoneDisablesStream :
    ({ test.machine .dma1 0 { test.running with disabling := true } with params := test.drainParams } : State).params.disableMode
        = .drain ∧
      ((test.machine .dma1 0 { test.running with disabling := true }).stream .dma1 0).disabling = true := by
  decide

theorem test_witness_EventsNeedTheirCondition :
    Stream.reset.cr.getLsbD 0 = false ∧ ({ test.running with disabling := true } : Stream).disabling = true ∧
      ({ dreq := false, answer := .ok } : Draw).dreq = false ∧ ({ dreq := true, answer := .error } : Draw).answer = .error ∧
      State.reset.params.disableMode = .immediate ∧ Stream.reset.disabling = false := by
  decide

theorem test_witness_EngineEventFrame :
    (∃ t, exec (.evElement .dma1 0 Draw.ok) (test.machine .dma1 0 test.running) = .next t) ∧
    (∃ t, exec (.evBusError .dma1 0 { dreq := true, answer := .error }) (test.machine .dma1 0 test.running) = .next t) ∧
    (∃ t, exec (.evArbError .dma1 0) (test.machine .dma1 0 test.running) = .next t) ∧
    ∃ t, exec (.evDrainDone .dma1 0)
      { test.machine .dma1 0 { test.running with disabling := true } with params := test.drainParams } = .next t :=
  ⟨⟨_, rfl⟩, ⟨_, rfl⟩, ⟨_, rfl⟩, ⟨_, rfl⟩⟩

/-! ## Witnesses: requests -/

theorem test_witness_WrongOwnerFaults :
    ({ Stream.reset with fsm := .single test.single } : Stream).fsm ≠ .idle ∧
      (∀ r, Stream.reset.fsm ≠ .single r) ∧
      (∀ r, ({ Stream.reset with fsm := .double { test.double with inReplace := some false } } : Stream).fsm = .double r →
        r.inReplace ≠ none) ∧
      ({ test.double with inReplace := some false } : DoubleRec).inReplace ≠ none := by
  refine ⟨by decide, fun r h => (by cases h), fun r h => ?_, by decide⟩
  cases h
  decide

/-- A register read inside the stream's own callback is F14, gives 0 and enters no trace (R62, R134). -/
theorem test_callback_read :
    let s := test.machine .dma1 4
      { test.doubling with fsm := .double { test.double with inReplace := some false } }
    (test.next (exec (.rdS4CR .dma1) s)).map (fun t => (t.ret, t.faults, t.trace)) =
      some (.word 0, [.notOwner], []) := by
  decide

/-- A host read of the four bytes 01 02 03 04 from the lowest up gives 0x04030201 (R42). -/
theorem test_host_read :
    (({ State.reset with mem := [(0, 1), (1, 2), (2, 3), (3, 4)] } : State).hostRead 0 .word).ret =
      .word 0x04030201 := by
  decide

/-- The invariant of a stream that has no disable pending. -/
theorem test_inv {p : Params} {y : Stream} (hr : crEn y.cr = true → y.countsOk = true ∧ cfgUnmodelled y.cr = false)
    (hd : y.disabling = false) (he : y.teif = true → crEn y.cr = false) (hv : y.cr &&& 0xF0100000 = 0)
    (hp : y.fsm.pairOk) : y.Inv p where
  run := hr
  drain h := by rw [hd] at h; cases h
  error := he
  reserved := hv
  pair := hp

theorem test_pairOk_idle : Fsm.idle.pairOk := fun r h => by cases h

theorem test_pairOk_single : (Fsm.single test.single).pairOk := fun r h => by cases h

theorem test_pairOk_double : (Fsm.double test.double).pairOk := fun r h => by cases h; decide

theorem test_witness_ListenSetsAndUnlistenClears :
    Stream.reset.fsm = .idle ∧ Stream.reset.Inv State.reset.params ∧ test.running.fsm = .idle ∧
      test.running.Inv State.reset.params :=
  ⟨rfl, test_inv (by decide) rfl (by decide) (by decide) test_pairOk_idle, rfl,
    test_inv (by decide) rfl (by decide) (by decide) test_pairOk_idle⟩

theorem test_witness_StreamQueriesAnswerFlags : (State.reset.stream .dma1 0).fsm = .idle := by decide

theorem test_witness_StreamResetStopsAndClears :
    test.running.fsm = .idle ∧ test.running.Inv State.reset.params :=
  ⟨rfl, test_inv (by decide) rfl (by decide) (by decide) test_pairOk_idle⟩

/-- Width 3 on either side, lengths 0 and 65536, and a pairing that is not allowed. -/
theorem test_witness_SingleStartPreconditions :
    (State.reset.stream .dma1 0).fsm = .idle ∧ (3 : Nat) ∉ [1, 2, 4] ∧ (1 : Nat) ∈ [1, 2, 4] ∧
      ((0 : Nat) < 1 ∨ 65535 < (0 : Nat)) ∧ ((65536 : Nat) < 1 ∨ 65535 < 65536) ∧ 1 ≤ 65535 ∧
      allowedPair { Params.spec with pairExceptions := [{ c := .dma1, s := 0, chan := 7, periph := 0 }] } .dma1 0 7 0 =
        false := by
  decide

theorem test_witness_SingleStartConfiguresAndEnables :
    Stream.reset.fsm = .idle ∧ Stream.reset.Inv State.reset.params ∧ Stream.reset.cr.getLsbD 0 = false ∧
      Stream.reset.tcif = false ∧ Stream.reset.teif = false ∧ Stream.reset.htif = false ∧
      Stream.reset.cr &&& 0x01E08020 = 0 ∧ 7 < 8 ∧ test.bufA.width ∈ [1, 2, 4] ∧ test.tgt.width = test.bufA.width ∧
      1 ≤ test.bufA.len ∧ test.bufA.len ≤ 65535 ∧ allowedPair State.reset.params .dma1 0 7 test.tgt.periph = true :=
  ⟨rfl, test_inv (by decide) rfl (by decide) (by decide) test_pairOk_idle, rfl, rfl, rfl, rfl, by decide, by decide,
    by decide, rfl, by decide, by decide, by decide⟩

theorem test_witness_SingleQueriesAnswerFlags :
    ((test.machine .dma1 0 { Stream.reset with fsm := .single test.single }).stream .dma1 0).fsm = .single test.single ∧
      test.single.errSeen = false := by
  decide

theorem test_witness_AfterErrorOnlyReset :
    ((test.machine .dma1 0 { Stream.reset with fsm := .single { test.single with errSeen := true } }).stream .dma1 0).fsm =
        .single { test.single with errSeen := true } ∧
      ({ test.single with errSeen := true } : SingleRec).errSeen = true := by
  decide

/-- Complete and in error at once; in error alone. -/
theorem test_witness_SingleWaitReturns :
    (({ Stream.reset with tcif := true, teif := true, fsm := .single test.single } : Stream).tcif = true ∧
      ({ Stream.reset with tcif := true, teif := true, fsm := .single test.single } : Stream).Inv State.reset.params) ∧
    (({ Stream.reset with teif := true, fsm := .single test.single } : Stream).tcif = false ∧
      ({ Stream.reset with teif := true, fsm := .single test.single } : Stream).teif = true ∧
      ({ Stream.reset with teif := true, fsm := .single test.single } : Stream).Inv State.reset.params) :=
  ⟨⟨rfl, test_inv (by decide) rfl (by decide) (by decide) test_pairOk_single⟩, rfl, rfl,
    test_inv (by decide) rfl (by decide) (by decide) test_pairOk_single⟩

theorem test_witness_SingleWaitLoopsWithoutFlags :
    ((test.machine .dma1 0 { Stream.reset with fsm := .single test.single }).stream .dma1 0).fsm = .single test.single ∧
      test.single.errSeen = false ∧
      ((test.machine .dma1 0 { Stream.reset with fsm := .single test.single }).stream .dma1 0).tcif = false ∧
      ((test.machine .dma1 0 { Stream.reset with fsm := .single test.single }).stream .dma1 0).teif = false := by
  decide

theorem test_witness_SingleResetReleases :
    ({ test.running with fsm := .single test.single } : Stream).fsm = .single test.single ∧
      ({ test.running with fsm := .single test.single } : Stream).Inv State.reset.params :=
  ⟨rfl, test_inv (by decide) rfl (by decide) (by decide) test_pairOk_single⟩

/-- Unequal lengths; unequal widths; width 3; lengths 0 and 65536; a pairing that is not allowed. -/
theorem test_witness_DoubleStartPreconditions :
    (State.reset.stream .dma1 4).fsm = .idle ∧ test.bufA.len ≠ ({ test.bufB with len := 3 } : Buf).len ∧
      (test.bufA.len = test.bufB.len ∧ test.bufA.width ≠ ({ test.bufB with width := 4 } : Buf).width) ∧
      (3 : Nat) ∉ [1, 2, 4] ∧ ((0 : Nat) < 1 ∨ 65535 < (0 : Nat)) ∧ ((65536 : Nat) < 1 ∨ 65535 < 65536) ∧
      (test.bufA.width = test.bufB.width ∧ test.bufA.width ∈ [1, 2, 4] ∧ test.tgt.width ∈ [1, 2, 4] ∧
        1 ≤ test.bufA.len ∧ test.bufA.len ≤ 65535) ∧
      allowedPair { Params.spec with pairExceptions := [{ c := .dma1, s := 4, chan := 7, periph := 0 }] } .dma1 4 7 0 =
        false := by
  decide

theorem test_witness_DoubleStartConfiguresAndEnables :
    Stream.reset.fsm = .idle ∧ Stream.reset.Inv State.reset.params ∧ Stream.reset.cr.getLsbD 0 = false ∧
      Stream.reset.tcif = false ∧ Stream.reset.teif = false ∧ Stream.reset.htif = false ∧
      Stream.reset.cr &&& 0x01E08020 = 0 ∧ 7 < 8 ∧ test.bufA.width ∈ [1, 2, 4] ∧ test.bufB.width = test.bufA.width ∧
      test.tgt.width = test.bufA.width ∧ 1 ≤ test.bufA.len ∧ test.bufA.len ≤ 65535 ∧ test.bufB.len = test.bufA.len ∧
      allowedPair State.reset.params .dma1 4 7 test.tgt.periph = true :=
  ⟨rfl, test_inv (by decide) rfl (by decide) (by decide) test_pairOk_idle, rfl, rfl, rfl, rfl, by decide, by decide,
    by decide, rfl, rfl, by decide, by decide, rfl, by decide⟩

/-- In error, with CT different from the marker as well. -/
theorem test_witness_PollErrorReleases :
    ({ test.doubling with cr := 0x0E0C2D40, teif := true } : Stream).fsm = .double test.double ∧
      test.double.inReplace = none ∧ ({ test.doubling with cr := 0x0E0C2D40, teif := true } : Stream).teif = true ∧
      ({ test.doubling with cr := 0x0E0C2D40, teif := true } : Stream).Inv State.reset.params :=
  ⟨rfl, rfl, rfl, test_inv (by decide) rfl (by decide) (by decide) test_pairOk_double⟩

theorem test_witness_PollUnchangedTargetWritesNothing :
    test.doubling.fsm = .double test.double ∧ test.double.inReplace = none ∧ test.doubling.teif = false ∧
      test.doubling.cr.getLsbD 19 = test.double.marker := by
  decide

theorem test_witness_PollHandsOffVacatedBuffer :
    ({ test.doubling with cr := 0x0E0C2D41 } : Stream).fsm = .double test.double ∧ test.double.inReplace = none ∧
      ({ test.doubling with cr := 0x0E0C2D41 } : Stream).teif = false ∧
      ({ test.doubling with cr := 0x0E0C2D41 } : Stream).cr.getLsbD 19 ≠ test.double.marker ∧
      ({ test.doubling with cr := 0x0E0C2D41 } : Stream).cr.getLsbD 18 = true ∧
      test.bufB.len = (test.double.buf test.double.marker).len ∧
      test.bufB.width = (test.double.buf test.double.marker).width := by
  decide

/-- A host that has the callback's result in hand: of another length, and of the right shape with the register locked
again. -/
theorem test_witness_HandOffRefused :
    ({ test.machine .dma1 4 test.doubling with
      stack := [{ c := .dma1, s := 4, t := 0, ops := [.install false true test.bufB], result := .cont }] } : State).stack =
        [{ c := .dma1, s := 4, t := 0, ops := [.install false true test.bufB], result := .cont }] ∧
      test.doubling.fsm = .double test.double ∧ ({ test.bufB with len := 8 } : Buf).len ≠ (test.double.buf false).len ∧
      (test.bufB.len = (test.double.buf false).len ∧ test.bufB.width = (test.double.buf false).width ∧
        test.doubling.cr.getLsbD 0 = true ∧ test.doubling.cr.getLsbD 19 = false) := by
  decide

theorem test_witness_DoubleResetReleases :
    test.doubling.fsm = .double test.double ∧ test.double.inReplace = none ∧ test.doubling.Inv State.reset.params :=
  ⟨rfl, rfl, test_inv (by decide) rfl (by decide) (by decide) test_pairOk_double⟩

/-- SB_START's enable write: F9 for a target of another width, F9 for PFCTRL left over, F11 for TCIF left over. -/
theorem test_witness_SingleStartEnableFaults :
    (Stream.reset.fsm = .idle ∧ Stream.reset.Inv State.reset.params ∧ Stream.reset.cr.getLsbD 0 = false ∧
      test.bufA.width ∈ [1, 2, 4] ∧ 4 ∈ [1, 2, 4] ∧ 1 ≤ test.bufA.len ∧ test.bufA.len ≤ 65535 ∧
      allowedPair State.reset.params .dma1 0 7 test.tgt.periph = true ∧ 4 ≠ test.bufA.width) ∧
    (({ Stream.reset with cr := 0x20 } : Stream).Inv State.reset.params ∧ (0x20 : Word) &&& 0x01E08020 ≠ 0) ∧
    (({ Stream.reset with tcif := true } : Stream).Inv State.reset.params ∧ test.tgt.width = test.bufA.width ∧
      Stream.reset.cr &&& 0x01E08020 = 0) :=
  ⟨⟨rfl, test_inv (by decide) rfl (by decide) (by decide) test_pairOk_idle, rfl, by decide, by decide, by decide,
      by decide, by decide, by decide⟩,
    ⟨test_inv (by decide) rfl (by decide) (by decide) test_pairOk_idle, by decide⟩,
    ⟨test_inv (by decide) rfl (by decide) (by decide) test_pairOk_idle, rfl, by decide⟩⟩

/-- DB_START's enable write, the same three ways; the last with HTIF alone under the policy that faults it. -/
theorem test_witness_DoubleStartEnableFaults :
    (test.bufB.width = test.bufA.width ∧ test.bufB.len = test.bufA.len ∧ 1 ∈ [1, 2, 4] ∧ 1 ≠ test.bufA.width ∧
      allowedPair State.reset.params .dma1 4 7 test.tgt.periph = true) ∧
    (({ Stream.reset with cr := 0x01800000 } : Stream).Inv State.reset.params ∧
      (0x01800000 : Word) &&& 0x01E08020 ≠ 0) ∧
    (({ Stream.reset with htif := true } : Stream).Inv { Params.spec with staleHt := .fault } ∧
      ({ Params.spec with staleHt := .fault } : Params).staleHt = .fault ∧ test.tgt.width = test.bufA.width) :=
  ⟨by decide, ⟨test_inv (by decide) rfl (by decide) (by decide) test_pairOk_idle, by decide⟩,
    ⟨test_inv (by decide) rfl (by decide) (by decide) test_pairOk_idle, rfl, rfl⟩⟩

/-! ## Witnesses: memory and the whole machine -/

/-- The last word that fits the address space, and the last byte. -/
theorem test_witness_HostReadGivesLittleEndian :
    ((test.agenda [.memRead 0xFFFFFFFC .word]).takes (.memRead 0xFFFFFFFC .word) [] ∧
      (0xFFFFFFFC : Word).toNat + 4 ≤ 4294967296) ∧
    ((test.agenda [.memRead 0xFFFFFFFF .byte]).takes (.memRead 0xFFFFFFFF .byte) [] ∧
      (0xFFFFFFFF : Word).toNat + 1 ≤ 4294967296) :=
  ⟨⟨⟨rfl, .inr rfl⟩, by decide⟩, ⟨⟨rfl, .inr rfl⟩, by decide⟩⟩

/-- A machine with a single transfer over 0x20000100..0x20000103, and an agenda. -/
def test.borrowing (l : List Input) : State :=
  { test.machine .dma1 0 { Stream.reset with fsm := .single test.single } with inputs := l }

/-- A word just below the borrowed buffer, at the last address a word fits, and the reset memory. -/
theorem test_witness_HostWriteStoresLittleEndian :
    memWf State.reset.mem = true ∧
      (test.agenda [.memWrite 0xFFFFFFFC .word 0x01020304]).takes (.memWrite 0xFFFFFFFC .word 0x01020304) [] ∧
      (0xFFFFFFFC : Word).toNat + 4 ≤ 4294967296 ∧
      ∀ j, j < 4 → ¬(test.agenda [.memWrite 0xFFFFFFFC .word 0x01020304]).borrows ((0xFFFFFFFC : Word).toNat + j) := by
  refine ⟨rfl, ⟨rfl, .inr rfl⟩, by decide, fun j _ h => ?_⟩
  obtain ⟨c, x, h⟩ := h
  have hf : ∀ c x, ((test.agenda [.memWrite 0xFFFFFFFC .word 0x01020304]).stream c x).fsm = .idle := by
    intro c
    cases c <;> decide
  rw [hf c x] at h
  rcases h with ⟨r, h, _⟩ | ⟨r, k, h, _⟩ <;> cases h

/-- A word whose last byte is the first borrowed byte; and accesses one byte past the end. -/
theorem test_witness_HostMemoryFaults :
    ((test.borrowing [.memWrite 0x200000FD .word 0]).takes (.memWrite 0x200000FD .word 0) [] ∧
      (0x200000FD : Word).toNat + 4 ≤ 4294967296 ∧
      ∃ j, j < 4 ∧ (test.borrowing [.memWrite 0x200000FD .word 0]).borrows ((0x200000FD : Word).toNat + j)) ∧
    ((test.agenda [.memWrite 0xFFFFFFFD .word 0]).takes (.memWrite 0xFFFFFFFD .word 0) [] ∧
      4294967296 < (0xFFFFFFFD : Word).toNat + 4) ∧
    ((test.agenda [.memRead 0xFFFFFFFF .half]).takes (.memRead 0xFFFFFFFF .half) [] ∧
      4294967296 < (0xFFFFFFFF : Word).toNat + 2) :=
  ⟨⟨⟨rfl, .inr rfl⟩, by decide, 3, by decide, .dma1, 0, .inl ⟨test.single, by decide, by decide, by decide⟩⟩,
    ⟨⟨rfl, .inr rfl⟩, by decide⟩, ⟨⟨rfl, .inr rfl⟩, by decide⟩⟩

/-- Reset takes a step and meets the invariant; so does a running stream that takes an event. -/
theorem test_witness_StepKeepsInvariant :
    ((test.agenda [.request 0x1001 OpRecord.none]).Inv ∧
      ∃ t, step (test.agenda [.request 0x1001 OpRecord.none]) = .next t) := by
  refine ⟨⟨fun c x => ?_, rfl⟩, ⟨_, rfl⟩⟩
  have h : ∀ c x, (test.agenda [.request 0x1001 OpRecord.none]).stream c x = Stream.reset := by
    intro c
    cases c <;> decide
  rw [h c x]
  exact test_inv (by decide) rfl (by decide) (by decide) test_pairOk_idle

/-- The witness of FaultsAndTraceOnlyGrow, EngineSetsAndHostClearsFlags and OnlyHostEnablesOnlyEngineMoves: a step that
takes an event and moves an element, and a step of the host. -/
theorem test_witness_steps :
    (∃ t, step { test.machine .dma1 0 test.running with inputs := [.event 0x10 Draw.ok] } = .next t ∧
      (t.stream .dma1 0).outlog ≠ []) ∧
    (∃ t, step { test.machine .dma1 0 { Stream.reset with tcif := true } with
      inputs := [.access 0x808 .word 0x20] } = .next t ∧ (t.stream .dma1 0).tcif = false) :=
  ⟨⟨_, rfl, by decide⟩, ⟨_, rfl, by decide⟩⟩

end Sys2Proof.Machine
end

namespace Sys2Proof.Machine

/-! ## The reset state -/

/-- Every stream of the machine after reset is a stream after controller reset (R39). -/
@[simp] theorem reset_stream (c : Ctrl) (x : StreamIx) : State.reset.stream c x = Stream.reset := by
  simp [State.stream, State.reset]

/-- A stream with no flag set contributes nothing to its status register (R76). -/
theorem flagWord_of_clear (x : StreamIx) {y : Stream} (hte : y.teif = false) (hht : y.htif = false)
    (htc : y.tcif = false) : flagWord x y = 0 := by
  simp [flagWord, bitIf, hte, hht, htc]

/-- Both status registers of both controllers read 0 after reset. -/
theorem reset_isr (c : Ctrl) (g : Group) : State.reset.isr c g = 0 := by
  have hflags (x : StreamIx) : flagWord x Stream.reset = 0 := flagWord_of_clear x rfl rfl rfl
  simp [State.isr, hflags]

/-- A stream with EN, TEIF and the reserved bits 0, no disable pending, and no transfer meets the invariant. -/
theorem Stream.inv_of_quiet (p : Params) {y : Stream} (hen : crEn y.cr = false) (hdis : y.disabling = false)
    (hte : y.teif = false) (hrsv : y.cr &&& 0xF0100000 = 0) (hfsm : y.fsm = .idle) : y.Inv p where
  run h := absurd (hen.symm.trans h) Bool.false_ne_true
  drain h := absurd (hdis.symm.trans h) Bool.false_ne_true
  error h := absurd (hte.symm.trans h) Bool.false_ne_true
  reserved := hrsv
  pair r h := by rw [hfsm] at h; cases h

/-- Settles O45: every stream is `Stream.reset`, whose fields are R39's table. -/
theorem resetValues : Obligations.ResetValues := by
  refine ⟨rfl, rfl, reset_isr, fun c x => ?_⟩
  rw [reset_stream]
  exact ⟨rfl, rfl⟩

/-- Settles O46: every stream of reset is quiet, and its memory lists nothing. -/
theorem resetMeetsInvariant : Obligations.ResetMeetsInvariant where
  streams c x := by
    rw [reset_stream]
    exact Stream.inv_of_quiet _ rfl rfl rfl rfl rfl
  mem := rfl

/-! ## Faults, trace and parameters -/

theorem EngineEffect.params {s t : State} {c : Ctrl} {x : StreamIx} (h : EngineEffect s c x t) :
    t.params = s.params := by
  cases h <;> rfl

theorem EngineEffect.trace {s t : State} {c : Ctrl} {x : StreamIx} (h : EngineEffect s c x t) :
    t.trace = s.trace := by
  cases h <;> rfl

theorem EngineEffect.faults {s t : State} {c : Ctrl} {x : StreamIx} (h : EngineEffect s c x t) :
    ∀ f, f ∈ s.faults → f ∈ t.faults := by
  cases h with
  | mark e _ => exact fun _ hf => mem_insertFault e hf
  | move y _ => exact fun _ hf => hf

/-- Settles O48: an engine event leaves the trace alone and at most marks a fault, and a host step only extends. -/
theorem faultsAndTraceOnlyGrow : Obligations.FaultsAndTraceOnlyGrow := by
  intro s t h
  obtain ⟨c, x, l, -, he⟩ | ⟨-, he⟩ := step_effect h
  · exact ⟨he.faults, ⟨[], by simp [he.trace]⟩, he.params⟩
  · obtain ⟨l, hl⟩ := he.trace
    exact ⟨he.faults, ⟨l, hl.symm⟩, he.params⟩

/-! ## Output logs under host steps -/

@[simp] theorem enable_outlog (p : Params) (y : Stream) : (enable p y).1.outlog = y.outlog := by
  unfold enable
  split <;> rfl

@[simp] theorem disable_outlog (p : Params) (y : Stream) : (disable p y).outlog = y.outlog := by
  unfold disable
  split <;> rfl

@[simp] theorem writeCrInactive_outlog (p : Params) (v : Word) (y : Stream) :
    (writeCrInactive p v y).1.outlog = y.outlog := by
  unfold writeCrInactive
  split
  · rfl
  · split
    · rw [enable_outlog]
    · rfl

@[simp] theorem writeCrActive_outlog (p : Params) (v : Word) (y : Stream) :
    (writeCrActive p v y).1.outlog = y.outlog := by
  unfold writeCrActive
  split
  · rfl
  · split
    · rfl
    · split
      · rw [disable_outlog]
      · rfl

@[simp] theorem writeNdtr_outlog (v : Word) (y : Stream) : (writeNdtr v y).1.outlog = y.outlog := by
  unfold writeNdtr
  split
  · rfl
  · split <;> rfl

@[simp] theorem writePar_outlog (v : Word) (y : Stream) : (writePar v y).1.outlog = y.outlog := by
  unfold writePar
  split <;> rfl

@[simp] theorem writeMar_outlog (j : Bool) (v : Word) (y : Stream) : (writeMar j v y).1.outlog = y.outlog := by
  unfold writeMar
  split
  · cases j <;> rfl
  · rfl

/-- A register write moves no element (R44). -/
@[simp] theorem writeStreamReg_outlog (p : Params) (r : SReg) (v : Word) (y : Stream) :
    (writeStreamReg p r v y).1.outlog = y.outlog := by
  cases r with
  | cr =>
    simp only [writeStreamReg]
    split
    · exact writeCrActive_outlog p v y
    · exact writeCrInactive_outlog p v y
  | ndtr => exact writeNdtr_outlog v y
  | par => exact writePar_outlog v y
  | m0ar => exact writeMar_outlog false v y
  | m1ar => exact writeMar_outlog true v y
  | fcr => rfl

theorem HostMove.outlog {p : Params} {y z : Stream} (h : HostMove p y z) : z.outlog = y.outlog := by
  cases h with
  | fsm _ f _ => rfl
  | write _ r v => exact writeStreamReg_outlog p r v y
  | clear x _ v => rfl

theorem HostMoves.outlog {p : Params} {y z : Stream} (h : HostMoves p y z) : z.outlog = y.outlog := by
  induction h with
  | refl => rfl
  | tail _ hmove ih => exact hmove.outlog.trans ih

/-! ## Output logs and EN under engine events -/

/-- One element adds one entry to the output log, at the pass's end and before it (R96, R98). -/
theorem moveElement_outlog (p : Params) (pa pb : Nat) (v : Word) (y : Stream) :
    (moveElement p pa pb v y).outlog = y.outlog ++ [{ addr := BitVec.ofNat 32 pa, size := pb, value := v }] := by
  unfold moveElement
  split
  · unfold boundary
    split <;> rfl
  · rfl

@[simp] theorem transferError_outlog (cause : TeCause) (y : Stream) : (transferError cause y).outlog = y.outlog := rfl

@[simp] theorem drainDone_outlog (y : Stream) : (drainDone y).outlog = y.outlog := rfl

/-- An engine moves an element only while its stream is enabled, and then one. -/
theorem EngineMove.outlog {p : Params} {y z : Stream} (h : EngineMove p y z) :
    z.outlog = y.outlog ∨ (crEn y.cr = true ∧ ∃ w, z.outlog = y.outlog ++ [w]) := by
  cases h with
  | element mb pb v hrun => exact .inr ⟨(engine_running hrun).1, _, moveElement_outlog ..⟩
  | error cause _ => exact .inl (transferError_outlog cause y)
  | drained _ _ => exact .inl (drainDone_outlog y)

/-- No engine event enables its stream: it is enabled before, or disabled after. -/
theorem EngineMove.crEn_of_crEn {p : Params} {y z : Stream} (h : EngineMove p y z) (hz : crEn z.cr = true) :
    crEn y.cr = true := by
  cases h with
  | element mb pb v hrun => exact (engine_running hrun).1
  | error cause hen => exact hen
  | drained _ _ => exact absurd hz (by simp [drainDone])

theorem EngineEffect.crEn_of_crEn {s t : State} {c c' : Ctrl} {x x' : StreamIx} (h : EngineEffect s c x t)
    (ht : crEn (t.stream c' x').cr = true) : crEn (s.stream c' x').cr = true := by
  cases h with
  | mark f _ => exact ht
  | move y hmove =>
    rw [stream_setStream] at ht
    split at ht
    · next e =>
      rw [e.1, e.2]
      exact hmove.crEn_of_crEn ht
    · exact ht

/-- Where an engine effect changes an output log, it is its own stream's: that one is enabled and gets one entry, and
no other stream changes. -/
theorem EngineEffect.of_outlog_ne {s t : State} {c c' : Ctrl} {x x' : StreamIx} (h : EngineEffect s c x t)
    (hne : (t.stream c' x').outlog ≠ (s.stream c' x').outlog) :
    (c' = c ∧ x' = x) ∧ (∃ w, (t.stream c x).outlog = (s.stream c x).outlog ++ [w]) ∧
      crEn (s.stream c x).cr = true ∧ ∀ c₀ x₀, ¬(c₀ = c ∧ x₀ = x) → t.stream c₀ x₀ = s.stream c₀ x₀ := by
  cases h with
  | mark f _ => exact absurd rfl hne
  | move y hmove =>
    by_cases hown : c' = c ∧ x' = x
    · obtain ⟨rfl, rfl⟩ := hown
      rw [stream_setStream_self] at hne
      obtain ⟨hen, hlog⟩ := hmove.outlog.resolve_left hne
      exact ⟨⟨rfl, rfl⟩, by rwa [stream_setStream_self], hen, fun c₀ x₀ => stream_setStream_ne s _ c₀ _ x₀ y⟩
    · exact absurd (by rw [stream_setStream_ne _ _ _ _ _ _ hown]) hne

/-! ## The events by their words -/

/-- Storing a stream with the output log it had changes no output log. -/
theorem outlog_setStream {s : State} {c : Ctrl} {x : StreamIx} {y : Stream}
    (hy : y.outlog = (s.stream c x).outlog) (c' : Ctrl) (x' : StreamIx) :
    ((s.setStream c x y).stream c' x').outlog = (s.stream c' x').outlog := by
  rw [stream_setStream]
  split
  · next e => rw [hy, e.1, e.2]
  · rfl

theorem execEvBusError_outlog {c : Ctrl} {x : StreamIx} {d : Draw} {s t : State}
    (h : execEvBusError c x d s = .next t) (c' : Ctrl) (x' : StreamIx) :
    (t.stream c' x').outlog = (s.stream c' x').outlog := by
  unfold execEvBusError at h
  split at h <;> cases h
  exact outlog_setStream (transferError_outlog ..) c' x'

theorem execEvArbError_outlog {c : Ctrl} {x : StreamIx} {s t : State}
    (h : execEvArbError c x s = .next t) (c' : Ctrl) (x' : StreamIx) :
    (t.stream c' x').outlog = (s.stream c' x').outlog := by
  unfold execEvArbError at h
  split at h <;> cases h
  exact outlog_setStream (transferError_outlog ..) c' x'

theorem execEvDrainDone_outlog {c : Ctrl} {x : StreamIx} {s t : State}
    (h : execEvDrainDone c x s = .next t) (c' : Ctrl) (x' : StreamIx) :
    (t.stream c' x').outlog = (s.stream c' x').outlog := by
  unfold execEvDrainDone at h
  split at h <;> cases h
  exact outlog_setStream (drainDone_outlog _) c' x'

/-- What an event word decodes to has an engine effect on one stream; unless it is that stream's EV_ELEMENT, no output
log changes (R72, R93). -/
theorem exec_decodeEv_effect {ev : BitVec 8} {d : Draw} {i : Instr} {s t : State} (hd : decodeEv ev d = .ok i)
    (h : exec i s = .next t) :
    ∃ c x, EngineEffect s c x t ∧
      (ev = evWord 1 c x ∨ ∀ c' x', (t.stream c' x').outlog = (s.stream c' x').outlog) := by
  have hcode := hd
  simp only [decodeEv] at hcode
  split at hcode <;> cases hcode
  · exact ⟨_, _, execEvElement_effect h, .inl (decodeEv_element hd)⟩
  · exact ⟨_, _, execEvBusError_effect h, .inr (execEvBusError_outlog h)⟩
  · exact ⟨_, _, execEvArbError_effect h, .inr (execEvArbError_outlog h)⟩
  · exact ⟨_, _, execEvDrainDone_effect h, .inr (execEvDrainDone_outlog h)⟩

/-- `eventNext` says that an event is at the agenda's head. -/
theorem eventNext_iff (s : State) : s.eventNext = true ↔ ∃ ev d rest, s.inputs = .event ev d :: rest := by
  unfold State.eventNext
  split
  · next ev d rest hl => exact ⟨fun _ => ⟨ev, d, rest, hl⟩, fun _ => rfl⟩
  · next hl => exact ⟨fun h => absurd h Bool.false_ne_true, fun ⟨ev, d, rest, h⟩ => absurd h (hl ev d rest)⟩

/-- A step that takes no event is the host's. -/
theorem step_host_effect {s t : State} (h : step s = .next t) (hno : ∀ ev d rest, s.inputs ≠ .event ev d :: rest) :
    HostEffect s t := by
  obtain ⟨-, -, -, hev, -⟩ | ⟨-, he⟩ := step_effect h
  · obtain ⟨ev, d, rest, hl⟩ := (eventNext_iff s).1 hev
    exact absurd hl (hno ev d rest)
  · exact he

/-- Settles O50: an event has an engine effect on its one stream, and host moves keep output logs. -/
theorem onlyHostEnablesOnlyEngineMoves : Obligations.OnlyHostEnablesOnlyEngineMoves := by
  intro s t h c x
  refine ⟨fun ev d rest hl => ?_, fun hno => ((step_host_effect h hno).streams c x).outlog⟩
  obtain ⟨i, hd, hexec⟩ := step_event hl h
  obtain ⟨c₀, x₀, heff, hword⟩ := exec_decodeEv_effect hd hexec
  refine ⟨heff.crEn_of_crEn, fun hne => ?_⟩
  obtain ⟨⟨rfl, rfl⟩, hlog, hen, hothers⟩ := heff.of_outlog_ne hne
  exact ⟨hword.resolve_right fun hkeep => hne (hkeep c x), hlog, hen, hothers⟩

end Sys2Proof.Machine

namespace Sys2Proof.Machine

/-! ## The host's entries as steps -/

/-- A host entry the machine takes is run on the state with the agenda moved on. -/
theorem hostEntry_of_takes {s : State} {inp : Input} {rest : List Input} (h : s.takes inp rest)
    (hno : ∀ ev d, inp ≠ .event ev d) (k : State → Fetched) :
    hostEntry s rest k = k { s with inputs := rest } := by
  obtain ⟨-, ⟨ev, d, he⟩ | hready⟩ := h
  · exact absurd he (hno ev d)
  · exact if_pos hready

/-- A host memory read the machine takes is `hostRead`. -/
theorem step_memRead {s : State} {a : Word} {size : AccessSize} {rest : List Input}
    (h : s.takes (.memRead a size) rest) :
    step s = .next (({ s with inputs := rest } : State).hostRead a size) := by
  simp only [step, State.fetch, h.1, hostEntry_of_takes h (by simp)]

/-- A host memory write the machine takes is `hostWrite`. -/
theorem step_memWrite {s : State} {a v : Word} {size : AccessSize} {rest : List Input}
    (h : s.takes (.memWrite a size v) rest) :
    step s = .next (({ s with inputs := rest } : State).hostWrite a size v) := by
  simp only [step, State.fetch, h.1, hostEntry_of_takes h (by simp)]

/-- A register access the decoder refuses with a model fault is `badAccess`. -/
theorem step_badAccess {s : State} {aw : BitVec 12} {size : AccessSize} {data : Word} {rest : List Input} {e : Reject}
    {f : ModelFault} (h : s.takes (.access aw size data) rest) (hd : decodeAw aw size data = .error e)
    (hf : rejectFault e = some f) :
    step s = .next (({ s with inputs := rest } : State).badAccess aw data f) := by
  simp only [step, State.fetch, h.1, hostEntry_of_takes h (by simp), fetchAccess, hd, hf]

/-! ## The outcomes of a host memory access -/

theorem wraps_iff (a n : Nat) : wraps a n = true ↔ 4294967296 < a + n :=
  decide_eq_true_iff

theorem wraps_of_fits {a n : Nat} (h : a + n ≤ 4294967296) : wraps a n = false :=
  Bool.eq_false_iff.2 fun hw => Nat.not_lt.2 h ((wraps_iff a n).1 hw)

/-- A read that fits gives the bytes' value (R42). -/
theorem hostRead_of_fits (s : State) {a : Word} {size : AccessSize} (h : a.toNat + sizeBytes size ≤ 4294967296) :
    s.hostRead a size = { s with ret := .word (memRead s.mem a.toNat (sizeBytes size)) } := by
  simp [State.hostRead, wraps_of_fits h]

/-- A read past the end is F13 (R42). -/
theorem hostRead_of_wraps (s : State) {a : Word} {size : AccessSize} (h : 4294967296 < a.toNat + sizeBytes size) :
    s.hostRead a size = s.refusedBy .addrWrap :=
  if_pos ((wraps_iff _ _).2 h)

/-- A write past the end is F13 (log 14). -/
theorem hostWrite_of_wraps (s : State) {a : Word} {size : AccessSize} (v : Word)
    (h : 4294967296 < a.toNat + sizeBytes size) : s.hostWrite a size v = s.refusedBy .addrWrap :=
  if_pos ((wraps_iff _ _).2 h)

/-- A write that fits and touches a borrowed byte is F16 (R57). -/
theorem hostWrite_of_borrows (s : State) {a : Word} {size : AccessSize} (v : Word)
    (h : a.toNat + sizeBytes size ≤ 4294967296) (hb : ∃ j, j < sizeBytes size ∧ s.borrows (a.toNat + j)) :
    s.hostWrite a size v = s.refusedBy .bufferRace := by
  simp only [State.hostWrite, wraps_of_fits h, (races_iff s _ _).2 hb]
  rfl

/-- A write that fits and touches no borrowed byte is stored (R43). -/
theorem hostWrite_of_free (s : State) {a : Word} {size : AccessSize} (v : Word)
    (h : a.toNat + sizeBytes size ≤ 4294967296) (hb : ∀ j, j < sizeBytes size → ¬s.borrows (a.toNat + j)) :
    s.hostWrite a size v = { s with mem := memWrite s.mem a.toNat (sizeBytes size) v, ret := .done } := by
  have hraces : s.races a.toNat (sizeBytes size) = false :=
    Bool.eq_false_iff.2 fun hr =>
      let ⟨j, hj, hbor⟩ := (races_iff s _ _).1 hr
      hb j hj hbor
  simp [State.hostWrite, wraps_of_fits h, hraces]

/-! ## Little-endian values -/

/-- The value at an address is the sum of its bytes, byte `j` with weight `2 ^ (8 * j)` (R42, R45). -/
theorem memValue_eq_sum (m : List Host.Cell) (a n : Nat) :
    memValue m a n = ((List.range n).map fun j => (readByte m (a + j)).toNat * 2 ^ (8 * j)).sum := by
  induction n generalizing a with
  | zero => rfl
  | succ n ih =>
    have hweight (j : Nat) : (readByte m (a + (j + 1))).toNat * 2 ^ (8 * (j + 1)) =
        256 * ((readByte m (a + 1 + j)).toNat * 2 ^ (8 * j)) := by
      rw [show a + (j + 1) = a + 1 + j by omega, Nat.mul_succ, Nat.pow_add]
      ring
    simp [memValue, ih, List.range_succ_eq_map, Function.comp_def, hweight, List.sum_map_mul_left]

/-- The low `k` bits of a word, by remainder and by mask. -/
theorem ofNat_mod_two_pow_eq_and (v : Word) {k : Nat} (hk : k ≤ 32) :
    BitVec.ofNat 32 (v.toNat % 2 ^ k) = v &&& BitVec.ofNat 32 (2 ^ k - 1) := by
  have hmask : 2 ^ k - 1 < 2 ^ 32 :=
    Nat.lt_of_lt_of_le (Nat.sub_one_lt_of_lt (Nat.two_pow_pos k)) (Nat.pow_le_pow_right (by omega) hk)
  apply BitVec.eq_of_toNat_eq
  rw [BitVec.toNat_and, BitVec.toNat_ofNat, BitVec.toNat_ofNat, Nat.mod_eq_of_lt hmask,
    Nat.and_two_pow_sub_one_eq_mod, Nat.mod_eq_of_lt (Nat.lt_of_le_of_lt (Nat.mod_le ..) v.isLt)]

theorem sizeBytes_le (size : AccessSize) : sizeBytes size ≤ 4 := by
  cases size <;> decide

/-! ## The host's memory -/

/-- Settles O43: the write is `memWrite`, whose bytes, frame and read-back the laws of memory give. -/
theorem hostWriteStoresLittleEndian : Obligations.HostWriteStoresLittleEndian := by
  intro s a v size rest n hwf (hn : n = sizeBytes size) htakes hfits hfree
  subst hn
  have hwrite := hostWrite_of_free { s with inputs := rest } v hfits hfree
  refine ⟨_, (step_memWrite htakes).trans (congrArg _ hwrite), rfl, fun j => readByte_memWrite_inside hwf hfits v,
    fun b => readByte_memWrite_outside hwf hfits v, ?_⟩
  have hbits : 8 * sizeBytes size ≤ 32 := Nat.mul_le_mul_left 8 (sizeBytes_le size)
  rw [hostRead_of_fits _ hfits, memRead_memWrite hwf hfits, ofNat_mod_two_pow_eq_and v hbits]

/-- Settles O53: the read's value is the sum of the weighted bytes. -/
theorem hostReadGivesLittleEndian : Obligations.HostReadGivesLittleEndian := by
  intro s a size rest n (hn : n = sizeBytes size) htakes hfits
  subst hn
  rw [step_memRead htakes, hostRead_of_fits _ hfits, memRead, memValue_eq_sum]

/-- Settles O44: past the end is F13 for a write and a read, and a borrowed byte inside it is F16. -/
theorem hostMemoryFaults : Obligations.HostMemoryFaults := by
  intro s a v size rest n (hn : n = sizeBytes size)
  subst hn
  refine ⟨fun htakes hfits hborrows => ?_, fun htakes hpast => ?_, fun htakes hpast => ?_⟩
  · rw [step_memWrite htakes, hostWrite_of_borrows { s with inputs := rest } v hfits hborrows]
  · rw [step_memWrite htakes, hostWrite_of_wraps _ v hpast]
  · rw [step_memRead htakes, hostRead_of_wraps _ hpast]

/-! ## Access words that decode to no register -/

/-- A byte, halfword or unaligned access is refused before the map is looked at (R62, R138). -/
theorem decodeAw_of_badWidth {aw : BitVec 12} {size : AccessSize} (data : Word)
    (h : size ≠ .word ∨ aw.toNat % 4 ≠ 0) : decodeAw aw size data = .error .badAccessWidth :=
  if_neg fun ⟨hword, haligned⟩ => h.elim (· hword) (· haligned)

/-- No register lies at an offset from 0x0D0 on (R62). -/
theorem regAt_of_unmapped {off : Nat} (h : 0x0D0 ≤ off) : regAt off = none := by
  simp [regAt, show ¬off < 0x010 by omega, show ¬off < 0x0D0 by omega]

/-- An aligned word access beyond the registers is refused as unmapped (R62). -/
theorem decodeAw_of_unmapped {aw : BitVec 12} (data : Word) (haligned : aw.toNat % 4 = 0)
    (hoff : 0x0D0 ≤ aw.toNat % 1024) : decodeAw aw .word data = .error .unmapped := by
  simp [decodeAw, haligned, regAt_of_unmapped hoff]

/-- A refused access is traced and marked; a read hands back 0 and a write the fault (R62; log 7, log 16). -/
theorem badAccess_eq (s : State) (aw : BitVec 12) (data : Word) (f : ModelFault) :
    s.badAccess aw data f = { s with
      faults := insertFault f s.faults
      trace := s.trace ++ [{ aw := aw, data := if aw.getLsbD 11 = true then data else 0 }]
      ret := if aw.getLsbD 11 = true then .faulted f else .word 0 } := by
  unfold State.badAccess
  split <;> rfl

/-- Settles O6: the decoder refuses both kinds of word, and a refused access is `badAccess`. -/
theorem badAccessWordFaults : Obligations.BadAccessWordFaults := by
  rintro s rest aw size data _ f htakes rfl (⟨rfl, hwidth⟩ | ⟨rfl, rfl, haligned, hoff⟩)
  · rw [step_badAccess htakes (decodeAw_of_badWidth data hwidth) rfl, badAccess_eq]
  · rw [step_badAccess htakes (decodeAw_of_unmapped data haligned hoff) rfl, badAccess_eq]

end Sys2Proof.Machine

namespace Sys2Proof.Machine

/-! ## The fields of the words -/

theorem getLsbD_eq_decide_div_mod {n : Nat} (v : BitVec n) (i : Nat) :
    v.getLsbD i = decide (v.toNat / 2 ^ i % 2 = 1) := by
  rw [BitVec.getLsbD, Nat.testBit_eq_decide_div_mod_eq]

theorem bit_lt_two (c : Ctrl) : c.bit < 2 := by
  cases c <;> decide

/-- A word whose bit `i` is the C bit of `c` names `c`. -/
theorem ctrlOfBit_getLsbD {n : Nat} {v : BitVec n} {i : Nat} {c : Ctrl} (h : v.toNat / 2 ^ i % 2 = c.bit) :
    ctrlOfBit (v.getLsbD i) = c := by
  rw [getLsbD_eq_decide_div_mod, h]
  cases c <;> rfl

/-- The access word as the number W, C, OFF (R60): the fields do not overlap. -/
theorem awWord_toNat (w : Bool) (c : Ctrl) (r : Reg) :
    (awWord w c r).toNat = 2048 * w.toNat + 1024 * c.bit + r.offset := by
  have hoff := offset_lt r
  have hbit := bit_lt_two c
  rw [awWord, BitVec.toNat_ofNat]
  cases w <;> simp <;> omega

/-- The request word as the number OP, C, S, A (R69). -/
theorem rqWord_toNat {op a : Nat} (c : Ctrl) (x : StreamIx) (hop : op < 16) (ha : a < 256) :
    (rqWord op c x a).toNat = 4096 * op + 2048 * c.bit + 256 * x.val + a := by
  have hbit := bit_lt_two c
  rw [rqWord, BitVec.toNat_ofNat]
  omega

/-- The event word as the number EV, C, S (R72). -/
theorem evWord_toNat {code : Nat} (c : Ctrl) (x : StreamIx) (hcode : code < 16) :
    (evWord code c x).toNat = 16 * code + 8 * c.bit + x.val := by
  have hbit := bit_lt_two c
  rw [evWord, BitVec.toNat_ofNat]
  omega

/-! ## The register map, both ways -/

/-- The map finds every register at its own offset (R61, R62). -/
@[simp] theorem regAt_offset (r : Reg) : regAt r.offset = some r := by
  cases r with
  | isr g => cases g <;> rfl
  | ifcr g => cases g <;> rfl
  | stream x q => cases q <;> fin_cases x <;> rfl

theorem slot_sregAt {k : Nat} (h : k < 6) : (sregAt k).slot = k := by
  interval_cases k <;> rfl

/-- What the map finds at an aligned offset has that offset (R61, R62). -/
theorem offset_of_regAt {off : Nat} {r : Reg} (haligned : off % 4 = 0) (h : regAt off = some r) : r.offset = off := by
  unfold regAt at h
  split at h
  · cases h
    obtain rfl | rfl | rfl | rfl : off = 0 ∨ off = 4 ∨ off = 8 ∨ off = 12 := by omega
    all_goals rfl
  · split at h
    · cases h
      have hslot : (off - 0x010) % 0x18 / 4 < 6 := by omega
      simp only [Reg.offset, slot_sregAt hslot, Fin.val_ofNat]
      omega
    · cases h

theorem offset_mod_four (r : Reg) : r.offset % 4 = 0 := by
  cases r with
  | isr g => cases g <;> rfl
  | ifcr g => cases g <;> rfl
  | stream x q => simp only [Reg.offset]; omega

/-! ## Decoding a word given by its fields -/

/-- The access word of a register decodes to its access in the word's direction (R60, R62). -/
theorem decodeAw_awWord (w : Bool) (c : Ctrl) (r : Reg) (v : Word) :
    decodeAw (awWord w c r) .word v = .ok (if w = true then wrInstr c r v else rdInstr c r) := by
  have hoff := offset_lt r
  have hbit := bit_lt_two c
  have haligned := offset_mod_four r
  have hword := awWord_toNat w c r
  have hw : (awWord w c r).getLsbD 11 = w := by
    rw [getLsbD_eq_decide_div_mod, hword]
    cases w <;> simp <;> omega
  have hc : ctrlOfBit ((awWord w c r).getLsbD 10) = c := ctrlOfBit_getLsbD (by omega)
  have hr : (awWord w c r).toNat % 1024 = r.offset := by omega
  have h4 : (awWord w c r).toNat % 4 = 0 := by omega
  simp only [decodeAw, hw, hc, hr, h4, regAt_offset, and_self, if_true]
  cases w <;> rfl

/-- A request word decodes by its code and its argument byte (R69, R71). -/
theorem decodeRq_rqWord {op a : Nat} (c : Ctrl) (x : StreamIx) (ops : OpRecord) (hop : op < 16) (ha : a < 256) :
    decodeRq (rqWord op c x a) ops = requestOf op c x a ops := by
  have hbit := bit_lt_two c
  have hword := rqWord_toNat c x hop ha
  have hop' : (rqWord op c x a).toNat / 4096 = op := by omega
  have hc : ctrlOfBit ((rqWord op c x a).getLsbD 11) = c := ctrlOfBit_getLsbD (by omega)
  have hx : Fin.ofNat 8 ((rqWord op c x a).toNat / 256) = x := Fin.ext (by simp only [Fin.val_ofNat]; omega)
  have ha' : (rqWord op c x a).toNat % 256 = a := by omega
  rw [decodeRq, hop', hc, hx, ha']

/-- The three fields the decoder takes from an event word (R72). -/
theorem evWord_fields {code : Nat} (c : Ctrl) (x : StreamIx) (hcode : code < 16) :
    (evWord code c x).toNat / 16 = code ∧ ctrlOfBit ((evWord code c x).getLsbD 3) = c ∧
      Fin.ofNat 8 (evWord code c x).toNat = x := by
  have hbit := bit_lt_two c
  have hword := evWord_toNat c x hcode
  exact ⟨by omega, ctrlOfBit_getLsbD (by omega), Fin.ext (by simp only [Fin.val_ofNat]; omega)⟩

theorem decodeEv_evElement (c : Ctrl) (x : StreamIx) (d : Draw) :
    decodeEv (evWord 1 c x) d = .ok (.evElement c x d) := by
  obtain ⟨hcode, hc, hx⟩ := evWord_fields (code := 1) c x (by decide)
  simp only [decodeEv, hcode, hc, hx]

theorem decodeEv_evBusError (c : Ctrl) (x : StreamIx) (d : Draw) :
    decodeEv (evWord 2 c x) d = .ok (.evBusError c x d) := by
  obtain ⟨hcode, hc, hx⟩ := evWord_fields (code := 2) c x (by decide)
  simp only [decodeEv, hcode, hc, hx]

theorem decodeEv_evArbError (c : Ctrl) (x : StreamIx) (d : Draw) :
    decodeEv (evWord 3 c x) d = .ok (.evArbError c x) := by
  obtain ⟨hcode, hc, hx⟩ := evWord_fields (code := 3) c x (by decide)
  simp only [decodeEv, hcode, hc, hx]

theorem decodeEv_evDrainDone (c : Ctrl) (x : StreamIx) (d : Draw) :
    decodeEv (evWord 4 c x) d = .ok (.evDrainDone c x) := by
  obtain ⟨hcode, hc, hx⟩ := evWord_fields (code := 4) c x (by decide)
  simp only [decodeEv, hcode, hc, hx]

/-! ## Decoding the encoding -/

theorem wf_sbStart {c : Ctrl} {x : StreamIx} {chan : Nat} {circ : Bool} {src : Buf} {tgt : Target} :
    (Instr.sbStart c x chan circ src tgt).wf = true ↔ chan < 8 :=
  decide_eq_true_iff

theorem wf_dbStart {c : Ctrl} {x : StreamIx} {chan : Nat} {buf0 buf1 : Buf} {tgt : Target} :
    (Instr.dbStart c x chan buf0 buf1 tgt).wf = true ↔ chan < 8 :=
  decide_eq_true_iff

/-- SB_START's argument byte carries the channel and the circular bit (R70). -/
theorem requestOf_sbStart (c : Ctrl) (x : StreamIx) {chan : Nat} (circ : Bool) (ops : OpRecord) (h : chan < 8) :
    requestOf 6 c x (chan + if circ then 8 else 0) ops = .ok (.sbStart c x chan circ ops.b0 ops.tgt) := by
  cases circ
  · have hlt : chan < 16 := by omega
    have hcirc : ¬chan / 8 = 1 := by omega
    simp [requestOf, hlt, hcirc, Nat.mod_eq_of_lt h]
  · have hlt : chan + 8 < 16 := by omega
    have hcirc : (chan + 8) / 8 = 1 := by omega
    simp [requestOf, hlt, hcirc, Nat.mod_eq_of_lt h]

/-- DB_START's argument byte is the channel (R70). -/
theorem requestOf_dbStart (c : Ctrl) (x : StreamIx) {chan : Nat} (ops : OpRecord) (h : chan < 8) :
    requestOf 11 c x chan ops = .ok (.dbStart c x chan ops.b0 ops.b1 ops.tgt) :=
  if_pos h

/-- Settles O1, port by port: a request or event word gives its fields back, and every other instruction is a register
access, whose word names its direction, controller and register. -/
theorem decodeEncodeAgree : Obligations.DecodeEncodeAgree := by
  intro i hwf
  cases i with
  | streamListen c x e | streamUnlisten c x e =>
    cases e <;> exact decodeRq_rqWord c x _ (by decide) (by decide)
  | streamIsComplete c x | streamHasError c x | streamReset c x | sbIsComplete c x | sbHasError c x | sbWait c x
  | sbReset c x | dbPoll c x | dbReset c x =>
    exact decodeRq_rqWord c x _ (by decide) (by decide)
  | sbStart c x chan circ src tgt =>
    have hchan := wf_sbStart.1 hwf
    have hbyte : (chan + if circ then 8 else 0) < 256 := by split <;> omega
    exact (decodeRq_rqWord c x _ (by decide) hbyte).trans (requestOf_sbStart c x circ _ hchan)
  | dbStart c x chan buf0 buf1 tgt =>
    have hchan := wf_dbStart.1 hwf
    exact (decodeRq_rqWord c x _ (by decide) (by omega)).trans (requestOf_dbStart c x _ hchan)
  | evElement c x d => exact decodeEv_evElement c x d
  | evBusError c x d => exact decodeEv_evBusError c x d
  | evArbError c x => exact decodeEv_evArbError c x _
  | evDrainDone c x => exact decodeEv_evDrainDone c x _
  | _ => exact decodeAw_awWord _ _ _ _

/-! ## What decodes -/

/-- What an access word decodes to: the access, in the word's direction and controller, of the register at its
offset (R62). -/
theorem decodeAw_ok {aw : BitVec 12} {size : AccessSize} {v : Word} {i : Instr} (h : decodeAw aw size v = .ok i) :
    ∃ r, r.offset = aw.toNat % 1024 ∧
      i = if aw.getLsbD 11 = true then wrInstr (ctrlOfBit (aw.getLsbD 10)) r v
        else rdInstr (ctrlOfBit (aw.getLsbD 10)) r := by
  unfold decodeAw at h
  split at h
  · next hword =>
    split at h
    · cases h
    · next r hr =>
      refine ⟨r, offset_of_regAt (by omega) hr, ?_⟩
      split at h
      · next hw =>
        cases h
        exact (if_pos hw).symm
      · next hw =>
        cases h
        exact (if_neg hw).symm
  · cases h

theorem wf_rdInstr (c : Ctrl) (r : Reg) : (rdInstr c r).wf = true := by
  cases r with
  | isr g => cases g <;> rfl
  | ifcr g => cases g <;> rfl
  | stream x q => cases q <;> fin_cases x <;> rfl

theorem wf_wrInstr (c : Ctrl) (r : Reg) (v : Word) : (wrInstr c r v).wf = true := by
  cases r with
  | isr g => cases g <;> rfl
  | ifcr g => cases g <;> rfl
  | stream x q => cases q <;> fin_cases x <;> rfl

/-- A request's channel comes from three argument bits, so it is below 8 (R70). -/
theorem wf_of_requestOf {op a : Nat} {c : Ctrl} {x : StreamIx} {ops : OpRecord} {i : Instr}
    (h : requestOf op c x a ops = .ok i) : i.wf = true := by
  unfold requestOf at h
  split at h
  case h_6 =>
    split at h <;> cases h
    exact wf_sbStart.2 (Nat.mod_lt a (by decide))
  case h_11 =>
    split at h <;> cases h
    exact wf_dbStart.2 ‹a < 8›
  case h_14 => cases h
  all_goals
    split at h <;> cases h
    rfl

theorem wf_of_decodeEv {ev : BitVec 8} {d : Draw} {i : Instr} (h : decodeEv ev d = .ok i) : i.wf = true := by
  simp only [decodeEv] at h
  split at h <;> cases h <;> rfl

/-- Settles O2: of the three ports only requests carry a channel. -/
theorem decodedIsWellFormed : Obligations.DecodedIsWellFormed := by
  intro inp i h
  cases inp with
  | access aw size v =>
    obtain ⟨r, -, rfl⟩ := decodeAw_ok h
    split
    · exact wf_wrInstr _ r v
    · exact wf_rdInstr _ r
  | request rq ops => exact wf_of_requestOf h
  | event ev d => exact wf_of_decodeEv h
  | turn | memRead | memWrite | callbackReturn => cases h

/-! ## Physical addresses -/

/-- Settles O52: DMA2's window lies 0x400 after DMA1's, so C is bit 10 of the address. -/
theorem accessWordNamesPhysicalAddress : Obligations.AccessWordNamesPhysicalAddress := by
  intro aw v
  have hoff : (aw.extractLsb' 0 10).toNat = aw.toNat % 1024 := by simp
  have hlow : (aw.extractLsb' 0 11).toNat = aw.toNat % 2048 := by simp
  have hbase : windowBase (ctrlOfBit (aw.getLsbD 10)) = if aw.getLsbD 10 = true then 0x40026400 else 0x40026000 := by
    cases aw.getLsbD 10 <;> rfl
  refine ⟨by rw [awAddr, hbase, hoff], ?_, fun i h => ?_⟩
  · rw [awAddr, hbase, hlow, getLsbD_eq_decide_div_mod]
    simp only [decide_eq_true_eq]
    split <;> omega
  · obtain ⟨r, hr, hi⟩ := decodeAw_ok h
    exact ⟨ctrlOfBit (aw.getLsbD 10), r, rfl, hr.trans hoff.symm, by rw [awAddr, hr], hi⟩

/-! ## Request words that decode to no request -/

/-- A reserved code, or an argument byte outside its code's layout, is no request (R70, R71). -/
theorem requestOf_badRequest {op a : Nat} (c : Ctrl) (x : StreamIx) (ops : OpRecord)
    (h : (op = 0 ∨ 14 ≤ op) ∨ (op ∈ [1, 2] ∧ 2 ≤ a) ∨ (op ∈ [3, 4, 5, 7, 8, 9, 10, 12, 13] ∧ a ≠ 0) ∨
      (op = 6 ∧ 16 ≤ a) ∨ (op = 11 ∧ 8 ≤ a)) :
    requestOf op c x a ops = .error .badRequest := by
  simp only [List.mem_cons, List.not_mem_nil, or_false] at h
  unfold requestOf
  split
  case h_14 => rfl
  all_goals exact if_neg (by omega)

/-- A request word the decoder refuses is F17 (R71). -/
theorem step_badRequest {s : State} {rq : BitVec 16} {ops : OpRecord} {rest : List Input}
    (h : s.takes (.request rq ops) rest) (hd : decodeRq rq ops = .error .badRequest) :
    step s = .next (({ s with inputs := rest } : State).refusedBy .badRequest) := by
  simp only [step, State.fetch, h.1, hostEntry_of_takes h (by simp), fetchRequest, hd]
  rfl

/-- Settles O7: the decoder refuses each of these words. -/
theorem badRequestWordFaults : Obligations.BadRequestWordFaults :=
  fun _ _ _ ops htakes hbad => step_badRequest htakes (requestOf_badRequest _ _ ops hbad)

/-! ## Words of the spec -/

/-- Settles O3: each word is decoded as it stands. -/
theorem specWordsDecode : Obligations.SpecWordsDecode :=
  ⟨fun _ => rfl, fun _ => rfl, rfl, rfl, fun _ => rfl, fun _ => rfl, fun _ => rfl, fun _ => rfl, fun _ => rfl,
    fun _ => rfl, fun _ => rfl⟩

/-! ## Events as steps -/

/-- An event code other than 1..4 names no event (R72). -/
theorem decodeEv_noSuchEvent {ev : BitVec 8} (d : Draw) (h : ev.toNat / 16 = 0 ∨ 5 ≤ ev.toNat / 16) :
    decodeEv ev d = .error .noSuchEvent := by
  simp only [decodeEv]
  split
  case h_5 => rfl
  all_goals omega

/-- An event at the agenda's head that decodes is run on the state with the agenda moved on. -/
theorem step_eq_exec_of_event {s : State} {ev : BitVec 8} {d : Draw} {rest : List Input} {i : Instr}
    (hl : s.inputs = .event ev d :: rest) (hd : decodeEv ev d = .ok i) :
    step s = exec i { s with inputs := rest } := by
  simp only [step, State.fetch, hl, fetchEvent, hd]

/-- An event at the agenda's head that does not decode is no step (log 9). -/
theorem step_noSuchEvent {s : State} {ev : BitVec 8} {d : Draw} {rest : List Input} {e : Reject}
    (hl : s.inputs = .event ev d :: rest) (hd : decodeEv ev d = .error e) : step s = .fault .noSuchEvent := by
  simp only [step, State.fetch, hl, fetchEvent, hd]

/-- Settles O8: each of the four words decodes to its event, and no other code decodes. -/
theorem eventWordsDecode : Obligations.EventWordsDecode := by
  intro s rest ev d hl
  refine ⟨fun hcode => step_noSuchEvent hl (decodeEv_noSuchEvent d hcode), ?_, ?_, ?_, ?_⟩ <;> rintro c x rfl
  · exact step_eq_exec_of_event hl (decodeEv_evElement c x d)
  · exact step_eq_exec_of_event hl (decodeEv_evBusError c x d)
  · exact step_eq_exec_of_event hl (decodeEv_evArbError c x d)
  · exact step_eq_exec_of_event hl (decodeEv_evDrainDone c x d)

end Sys2Proof.Machine

namespace Sys2Proof.Machine

/-! ## Register accesses as instructions -/

/-- A register read that gives a value, and that no running callback bars. -/
theorem exec_rdInstr_ok {s : State} {c : Ctrl} {r : Reg} {v : Word} (hb : s.barred c r = false)
    (hv : s.regValue c r = .ok v) : exec (rdInstr c r) s = .next (s.gave c r v) :=
  (exec_rdInstr s c r).trans (congrArg _ (rawRead_ok hb hv))

/-- A stream-register write that is taken. -/
theorem exec_wrInstr_ok {s : State} {c : Ctrl} {x : StreamIx} {q : SReg} {v : Word} {z : Stream}
    (hb : (s.stream c x).fsm.replacing = false) (h : writeStreamReg s.params q v (s.stream c x) = (z, none)) :
    exec (wrInstr c (.stream x q) v) s = .next (s.wrote c x q v z) :=
  (exec_wrInstr s c _ v).trans (congrArg _ (rawWrite_ok hb h))

/-- A stream-register write that raises a fault. -/
theorem exec_wrInstr_fault {s : State} {c : Ctrl} {x : StreamIx} {q : SReg} {v : Word} {z : Stream} {f : ModelFault}
    (hb : (s.stream c x).fsm.replacing = false) (h : writeStreamReg s.params q v (s.stream c x) = (z, some f)) :
    exec (wrInstr c (.stream x q) v) s = .next (s.wroteFaulting c x q v z f) :=
  (exec_wrInstr s c _ v).trans (congrArg _ (rawWrite_fault hb h))

/-! ## Status and clear registers -/

/-- Settles O9: the read gives `State.isr`, whose bits the laws of the status registers state. -/
theorem statusReadShowsFlags : Obligations.StatusReadShowsFlags := by
  intro s c g
  refine ⟨s.isr c g, exec_rdInstr_ok rfl rfl, ?_, isr_reserved s c g⟩
  rintro x rfl
  exact isr_bits s c x

/-- Settles O10: both registers refuse the access before any register is looked at. -/
theorem statusWriteAndClearReadFault : Obligations.StatusWriteAndClearReadFault := by
  intro s c g
  exact ⟨fun v => exec_wrInstr s c (.isr g) v, exec_rdInstr s c (.ifcr g)⟩

/-- A clear-register write with a reserved bit set is F3 (R79). -/
theorem rawWrite_ifcr_reserved (s : State) (c : Ctrl) (g : Group) {v : Word} (h : v &&& ~~~ifcrDef ≠ 0) :
    s.rawWrite c (.ifcr g) v = { s with
      trace := s.trace ++ [accessOf true c (.ifcr g) v]
      faults := insertFault .reservedBit s.faults
      ret := .faulted .reservedBit } := by
  have hw : s.regWrite c (.ifcr g) v = (s, some .reservedBit) := if_pos h
  simp only [State.rawWrite, State.barred, State.busWrite, hw]
  rfl

/-- A clear-register write of defined bits clears on its group (R79). -/
theorem rawWrite_ifcr_ok (s : State) (c : Ctrl) (g : Group) {v : Word} (h : v &&& ~~~ifcrDef = 0) :
    s.rawWrite c (.ifcr g) v = { s.clearGroup c g v with
      trace := s.trace ++ [accessOf true c (.ifcr g) v], ret := .done } := by
  have hw : s.regWrite c (.ifcr g) v = (s.clearGroup c g v, none) := if_neg (not_not_intro h)
  simp only [State.rawWrite, State.barred, State.busWrite, hw]
  rfl

/-- The clear masks of a stream are its three flag bits (R67, R79). -/
theorem clearFlagsOf_eq (x : StreamIx) (v : Word) (y : Stream) :
    clearFlagsOf x v y = { y with
      teif := y.teif && !v.getLsbD (flagBase (x.val % 4) + 3)
      htif := y.htif && !v.getLsbD (flagBase (x.val % 4) + 4)
      tcif := y.tcif && !v.getLsbD (flagBase (x.val % 4) + 5) } := by
  have hb := flagBase_le (x.val % 4)
  rw [clearFlagsOf, teBit, htBit, tcBit, hasBits_twoPow v (by omega), hasBits_twoPow v (by omega),
    hasBits_twoPow v (by omega)]

/-- Settles O11: the clear register either refuses a reserved bit or clears stream by stream. -/
theorem clearWriteClearsOnes : Obligations.ClearWriteClearsOnes := by
  intro s c g v
  rw [exec_wrInstr]
  refine ⟨fun h => congrArg _ (rawWrite_ifcr_reserved s c g h), fun h => ?_⟩
  refine ⟨_, congrArg _ (rawWrite_ifcr_ok s c g h), rfl, fun c' x => (stream_clearGroup s c g v c' x).trans ?_⟩
  split
  · next hown => rw [clearFlagsOf_eq, hown.1]
  · rfl

/-! ## A stream's activity -/

theorem active_eq_true_iff {y : Stream} :
    y.active = true ↔ y.cr.getLsbD 0 = true ∨ y.disabling = true :=
  Bool.or_eq_true_iff

theorem active_eq_false_iff {y : Stream} :
    y.active = false ↔ y.cr.getLsbD 0 = false ∧ y.disabling = false :=
  Bool.or_eq_false_iff

/-! ## SxCR: read -/

/-- A read of SxCR: every bit as stored but the reserved ones and bit 0 (R80). -/
theorem crRead_eq (y : Stream) : y.crRead = (y.cr &&& 0x0FEFFFFE) ||| bitIf y.active 1 := by
  rw [Stream.crRead, BitVec.and_assoc]
  rfl

/-- Settles O12: the mask keeps the stored bits, and bit 0 comes from `active` alone. -/
theorem controlReadShowsActive : Obligations.ControlReadShowsActive := by
  intro s c x hb
  refine ⟨_, exec_rdInstr_ok hb rfl, ?_, ?_, crEn_crRead _⟩
  · have hbit : ∀ b, bitIf b 1 &&& (0x0FEFFFFE : Word) = 0#32 := by decide
    rw [crRead_eq, BitVec.and_or_distrib_right, hbit, BitVec.and_assoc, BitVec.or_zero, BitVec.and_self]
  · have hbit : ∀ b, bitIf b 1 &&& (0xF0100000 : Word) = 0#32 := by decide
    rw [crRead_eq, BitVec.and_or_distrib_right, hbit, BitVec.and_assoc, BitVec.or_zero]
    exact BitVec.and_zero

/-! ## SxNDTR, SxPAR -/

/-- The upper half of a word is 0 exactly when its value fits 16 bits. -/
theorem upper_eq_zero_iff (v : Word) : v.extractLsb' 16 16 = 0 ↔ v.toNat < 65536 := by
  rw [← BitVec.toNat_inj, BitVec.extractLsb'_toNat]
  have := v.isLt
  simp [Nat.shiftRight_eq_div_pow]
  omega

theorem writeNdtr_reserved {v : Word} (h : 65536 ≤ v.toNat) (y : Stream) :
    writeNdtr v y = (y, some .reservedBit) :=
  if_pos fun h0 => Nat.not_lt.2 h ((upper_eq_zero_iff v).1 h0)

theorem writeNdtr_of_fits {v : Word} (h : v.toNat < 65536) (y : Stream) :
    writeNdtr v y =
      if y.active then (y, some .protectedWrite) else ({ y with ndtr := v.setWidth 16 }, none) :=
  if_neg (not_not_intro ((upper_eq_zero_iff v).2 h))

/-- Settles O15: the reserved bits are checked before the protection. -/
theorem countRegisterReadsAndWrites : Obligations.CountRegisterReadsAndWrites := by
  rintro s c x v _ rfl hb
  refine ⟨exec_rdInstr_ok hb rfl, fun h => ?_, fun h hact => ?_, fun h hen hdis => ?_⟩
  · exact exec_wrInstr_fault hb (writeNdtr_reserved h _)
  · exact exec_wrInstr_fault hb ((writeNdtr_of_fits h _).trans (if_pos (active_eq_true_iff.2 hact)))
  · refine exec_wrInstr_ok hb ((writeNdtr_of_fits h _).trans ?_)
    rw [active_eq_false_iff.2 ⟨hen, hdis⟩]
    rfl

/-- Settles O16: `active` alone decides whether the write is taken. -/
theorem peripheralAddressReadsAndWrites : Obligations.PeripheralAddressReadsAndWrites := by
  rintro s c x v _ rfl hb
  refine ⟨exec_rdInstr_ok hb rfl, fun hact => ?_, fun hen hdis => ?_⟩
  · exact exec_wrInstr_fault hb (if_pos (active_eq_true_iff.2 hact))
  · exact exec_wrInstr_ok hb (if_neg (Bool.eq_false_iff.1 (active_eq_false_iff.2 ⟨hen, hdis⟩)))

/-! ## SxM0AR, SxM1AR -/

/-- The address lock: an active stream's register `j` is writable only in double-buffer mode while the other buffer is
the current target (R91). -/
theorem addrWritable_iff {j : Bool} {y : Stream} :
    addrWritable j y = true ↔
      ¬(y.cr.getLsbD 0 = true ∨ y.disabling = true) ∨ (y.cr.getLsbD 18 = true ∧ y.cr.getLsbD 19 = !j) := by
  rw [← active_eq_true_iff, addrWritable, crDbm, crCt]
  cases j <;> simp

theorem addrWritable_eq_false_iff {j : Bool} {y : Stream} :
    addrWritable j y = false ↔
      (y.cr.getLsbD 0 = true ∨ y.disabling = true) ∧ (y.cr.getLsbD 18 = false ∨ y.cr.getLsbD 19 = j) := by
  rw [← Bool.not_eq_true, addrWritable_iff, not_or, not_not, not_and_or, Bool.not_eq_true]
  cases j <;> simp

theorem writeMar_locked {j : Bool} {y : Stream} (v : Word) (h : addrWritable j y = false) :
    writeMar j v y = (y, some .lockedAddrWrite) :=
  if_neg (Bool.eq_false_iff.1 h)

theorem writeMar_taken {j : Bool} {y : Stream} (v : Word) (h : addrWritable j y = true) :
    writeMar j v y = (if j then { y with m1ar := v } else { y with m0ar := v }, none) :=
  if_pos h

/-- Settles O17: each register is the lock's case for its own buffer. -/
theorem bufferAddressesReadAndLock : Obligations.BufferAddressesReadAndLock := by
  rintro s c x v _ active rfl hb hact
  rw [hact]
  refine ⟨exec_rdInstr_ok hb rfl, exec_rdInstr_ok hb rfl, fun h => ?_, fun ha h => ?_, fun h => ?_, fun ha h => ?_⟩
  · exact exec_wrInstr_ok hb (writeMar_taken v (addrWritable_iff.2 h))
  · exact exec_wrInstr_fault hb (writeMar_locked v (addrWritable_eq_false_iff.2 ⟨ha, h⟩))
  · exact exec_wrInstr_ok hb (writeMar_taken v (addrWritable_iff.2 h))
  · exact exec_wrInstr_fault hb (writeMar_locked v (addrWritable_eq_false_iff.2 ⟨ha, h⟩))

/-! ## SxFCR -/

/-- Settles O18: the register has no storage, so both accesses only fault. -/
theorem fifoControlAccessFaults : Obligations.FifoControlAccessFaults := by
  intro s c x v hb
  refine ⟨(exec_rdInstr s c _).trans ?_, exec_wrInstr_fault hb rfl⟩
  simp only [State.rawRead, State.barred, hb]
  rfl

/-! ## SxCR: write while not active -/

/-- F9's condition, field by field (R83). -/
theorem cfgUnmodelled_iff (v : Word) :
    cfgUnmodelled v = true ↔
      (v.extractLsb' 6 2 ≠ 1 ∨ v.extractLsb' 11 2 = 3 ∨ v.extractLsb' 13 2 = 3 ∨
        v.extractLsb' 13 2 ≠ v.extractLsb' 11 2 ∨ v.getLsbD 5 = true ∨ v.getLsbD 15 = true ∨
        v.extractLsb' 21 2 ≠ 0 ∨ v.extractLsb' 23 2 ≠ 0 ∨ (v.getLsbD 18 = true ∧ v.getLsbD 8 = false)) := by
  simp only [cfgUnmodelled, crDir, crPsize, crMsize, crPfctrl, crPincos, crPburst, crMburst, crDbm, crCirc,
    Bool.or_eq_true, Bool.and_eq_true, bne_iff_ne, beq_iff_eq, Bool.not_eq_true', or_assoc]

/-- The configuration check does not see EN. -/
@[simp] theorem cfgUnmodelled_crDisable (cr : Word) : cfgUnmodelled (crDisable cr) = cfgUnmodelled cr := by
  simp [cfgUnmodelled, crDir, crPsize, crMsize, crPfctrl, crPincos, crPburst, crMburst, crDbm, crCirc, crDisable,
    enBit, BitVec.extractLsb'_and, and_three]

/-- Clearing EN and setting it again gives back a word that had it. -/
theorem crEnable_crDisable {cr : Word} (h : crEn cr = true) : crEnable (crDisable cr) = cr := by
  have hbit : ∀ i, i < 32 → enBit.getLsbD i = true → i = 0 := by decide
  apply BitVec.eq_of_getLsbD_eq
  intro i hi
  simp only [crEnable, crDisable, BitVec.getLsbD_or, BitVec.getLsbD_and, BitVec.getLsbD_not, hi, decide_true,
    Bool.true_and]
  cases hb : enBit.getLsbD i
  · simp
  · rw [hbit i hi hb, show cr.getLsbD 0 = true from h]
    rfl

theorem writeStreamReg_cr_inactive (p : Params) (v : Word) {y : Stream} (ha : y.active = false) :
    writeStreamReg p .cr v y = writeCrInactive p v y :=
  if_neg (Bool.eq_false_iff.1 ha)

theorem writeCrInactive_reserved (p : Params) {v : Word} (y : Stream) (h : v &&& rsvCr ≠ 0) :
    writeCrInactive p v y = (y, some .reservedBit) :=
  if_pos h

/-- A write with EN = 0 stores the fields and checks no configuration (R81). -/
theorem writeCrInactive_configure (p : Params) {v : Word} (y : Stream) (hrsv : v &&& rsvCr = 0)
    (hen : crEn v = false) : writeCrInactive p v y = ({ y with cr := crDisable v }, none) :=
  (if_neg (not_not_intro hrsv)).trans (if_neg (Bool.eq_false_iff.1 hen))

/-! ## The enable checks (R83) -/

/-- An enable that a check refuses changes nothing (R82). -/
theorem enable_refused {p : Params} {y : Stream} {f : ModelFault} (h : enChecks p y = some f) :
    enable p y = (y, some f) := by
  rw [enable, h]

/-- An enable that passes the checks sets EN and starts the count and the ghosts anew (R82). -/
theorem enable_taken {p : Params} {y : Stream} (h : enChecks p y = none) :
    enable p y = ({ y with reload := y.ndtr, passes := 0, teCause := .none, cr := crEnable y.cr }, none) := by
  rw [enable, h]

theorem enChecks_unmodelled (p : Params) {y : Stream} (h : cfgUnmodelled y.cr = true) :
    enChecks p y = some .unmodelledConfig :=
  if_pos h

theorem enChecks_zeroCount (p : Params) {y : Stream} (hcfg : cfgUnmodelled y.cr = false) (h : y.ndtr = 0) :
    enChecks p y = some .zeroCount := by
  simp [enChecks, hcfg, h]

theorem enChecks_staleFlags {p : Params} {y : Stream} (hcfg : cfgUnmodelled y.cr = false) (hcount : y.ndtr ≠ 0)
    (h : y.tcif = true ∨ y.teif = true ∨ (y.htif = true ∧ p.staleHt = .fault)) :
    enChecks p y = some .staleFlags := by
  rcases h with htc | hte | ⟨hht, hstale⟩
  · simpa [enChecks, hcfg, htc] using hcount
  · simpa [enChecks, hcfg, hte] using hcount
  · simpa [enChecks, hcfg, hht, hstale] using hcount

theorem enChecks_passed {p : Params} {y : Stream} (hcfg : cfgUnmodelled y.cr = false) (hcount : y.ndtr ≠ 0)
    (htc : y.tcif = false) (hte : y.teif = false) (hht : y.htif = false ∨ p.staleHt = .allow) :
    enChecks p y = none := by
  rcases hht with hht | hstale
  · simpa [enChecks, hcfg, htc, hte, hht] using hcount
  · simpa [enChecks, hcfg, htc, hte, hstale] using hcount

/-- A write with EN = 1 stores the fields and then enables (R81, R82). -/
theorem writeCrInactive_enable (p : Params) {v : Word} (y : Stream) (hrsv : v &&& rsvCr = 0)
    (hen : crEn v = true) : writeCrInactive p v y = enable p { y with cr := crDisable v } :=
  (if_neg (not_not_intro hrsv)).trans (if_pos hen)

/-- A refused enable leaves the fields stored with EN = 0 (R82). -/
theorem writeCrInactive_refused {p : Params} {v : Word} {y : Stream} {f : ModelFault} (hrsv : v &&& rsvCr = 0)
    (hen : crEn v = true) (h : enChecks p { y with cr := crDisable v } = some f) :
    writeCrInactive p v y = ({ y with cr := crDisable v }, some f) :=
  (writeCrInactive_enable p y hrsv hen).trans (enable_refused h)

/-- An enable stores the word as written and starts the count and the ghosts anew (R82). -/
theorem writeCrInactive_enabled {p : Params} {v : Word} {y : Stream} (hrsv : v &&& rsvCr = 0) (hen : crEn v = true)
    (h : enChecks p { y with cr := crDisable v } = none) :
    writeCrInactive p v y = ({ y with cr := v, reload := y.ndtr, passes := 0, teCause := .none }, none) := by
  rw [writeCrInactive_enable p y hrsv hen, enable_taken h, crEnable_crDisable hen]

/-- Settles O13: a reserved bit, a configuration write, or an enable, which one of the checks decides. -/
theorem controlWriteWhileInactive : Obligations.ControlWriteWhileInactive := by
  rintro s c x v _ _ unmodelled rfl rfl hb hen hdis hcfg
  have hwrite := writeStreamReg_cr_inactive s.params v (active_eq_false_iff.2 ⟨hen, hdis⟩)
  rw [← cfgUnmodelled_iff, ← cfgUnmodelled_crDisable] at hcfg
  have hmodelled (h : ¬unmodelled) : cfgUnmodelled (crDisable v) = false :=
    Bool.eq_false_iff.2 fun hc => h (hcfg.2 hc)
  refine ⟨fun hrsv => ?_, fun hrsv hv => ?_, fun hrsv hv hun => ?_, fun hrsv hv hun hzero => ?_,
    fun hrsv hv hun hcount hstale => ?_, fun hrsv hv hun hcount htc hte hht => ?_⟩
  · exact exec_wrInstr_fault hb (hwrite.trans (writeCrInactive_reserved _ _ hrsv))
  · exact exec_wrInstr_ok hb (hwrite.trans (writeCrInactive_configure _ _ hrsv hv))
  · exact exec_wrInstr_fault hb
      (hwrite.trans (writeCrInactive_refused hrsv hv (enChecks_unmodelled _ (hcfg.1 hun))))
  · exact exec_wrInstr_fault hb
      (hwrite.trans (writeCrInactive_refused hrsv hv (enChecks_zeroCount _ (hmodelled hun) hzero)))
  · exact exec_wrInstr_fault hb
      (hwrite.trans (writeCrInactive_refused hrsv hv (enChecks_staleFlags (hmodelled hun) hcount hstale)))
  · exact exec_wrInstr_ok hb
      (hwrite.trans (writeCrInactive_enabled hrsv hv (enChecks_passed (hmodelled hun) hcount htc hte hht)))

/-! ## SxCR: write while active -/

theorem writeStreamReg_cr_active (p : Params) (v : Word) {y : Stream} (ha : y.active = true) :
    writeStreamReg p .cr v y = writeCrActive p v y :=
  if_pos ha

theorem writeCrActive_reserved (p : Params) {v : Word} (y : Stream) (h : v &&& rsvCr ≠ 0) :
    writeCrActive p v y = (y, some .reservedBit) :=
  if_pos h

theorem writeCrActive_protected (p : Params) {v : Word} {y : Stream} (hrsv : v &&& rsvCr = 0)
    (h : v &&& protMask ≠ y.cr &&& protMask) : writeCrActive p v y = (y, some .protectedWrite) :=
  (if_neg (not_not_intro hrsv)).trans (if_pos h)

/-- A write that keeps the protected fields takes the interrupt enables; with EN = 1, or while a disable is pending,
that is all (R84). -/
theorem writeCrActive_keeps (p : Params) {v : Word} {y : Stream} (hrsv : v &&& rsvCr = 0)
    (hprot : v &&& protMask = y.cr &&& protMask) (hkeep : crEn v = true ∨ y.disabling = true) :
    writeCrActive p v y = ({ y with cr := crTakeIe y.cr v }, none) := by
  rw [writeCrActive, if_neg (not_not_intro hrsv), if_neg (not_not_intro hprot)]
  rcases hkeep with hen | hdis
  · simp [hen]
  · simp [hdis]

/-- With EN = 0 and no disable pending such a write disables as well (R84). -/
theorem writeCrActive_disables (p : Params) {v : Word} {y : Stream} (hrsv : v &&& rsvCr = 0)
    (hprot : v &&& protMask = y.cr &&& protMask) (hen : crEn v = false) (hdis : y.disabling = false) :
    writeCrActive p v y = (disable p { y with cr := crTakeIe y.cr v }, none) := by
  rw [writeCrActive, if_neg (not_not_intro hrsv), if_neg (not_not_intro hprot), hen, hdis]
  rfl

/-- A disable acts at once, or is left pending (R85). -/
theorem disable_eq (p : Params) (y : Stream) :
    disable p y = if p.disableMode = .immediate then { y with cr := crDisable y.cr }
      else { y with disabling := true } := by
  rw [disable]
  cases p.disableMode <;> rfl

/-- Settles O14: a reserved bit, a protected field, or a taken write, which EN = 0 makes a disable. -/
theorem controlWriteWhileActive : Obligations.ControlWriteWhileActive := by
  rintro s c x v _ _ rfl rfl hb hact
  have hwrite := writeStreamReg_cr_active s.params v (active_eq_true_iff.2 hact)
  refine ⟨fun hrsv => ?_, fun hrsv hprot => ?_, fun hrsv hprot hkeep => ?_, fun hrsv hprot hv hdis => ?_⟩
  · exact exec_wrInstr_fault hb (hwrite.trans (writeCrActive_reserved _ _ hrsv))
  · exact exec_wrInstr_fault hb (hwrite.trans (writeCrActive_protected _ hrsv hprot))
  · exact exec_wrInstr_ok hb (hwrite.trans (writeCrActive_keeps _ hrsv hprot hkeep))
  · refine exec_wrInstr_ok hb ((hwrite.trans (writeCrActive_disables _ hrsv hprot hv hdis)).trans ?_)
    rw [disable_eq]
    rfl

/-! ## The frame of a stream-register write -/

/-- What a write of register `q` can make of its stream: another value of that register, for SxCR with the hidden
registers and ghosts an enable or a disable sets, and nothing else (R81 to R92). -/
inductive RegMove (y : Stream) : SReg → Stream → Prop where
  | keep (q : SReg) : RegMove y q y
  | cr (cr : Word) (reload : BitVec 16) (disabling : Bool) (passes : Nat) (cause : TeCause) :
      RegMove y .cr { y with cr := cr, reload := reload, disabling := disabling, passes := passes, teCause := cause }
  | ndtr (n : BitVec 16) : RegMove y .ndtr { y with ndtr := n }
  | par (a : Word) : RegMove y .par { y with par := a }
  | m0ar (a : Word) : RegMove y .m0ar { y with m0ar := a }
  | m1ar (a : Word) : RegMove y .m1ar { y with m1ar := a }

theorem RegMove.enable (p : Params) (y : Stream) (cr : Word) :
    RegMove y .cr (Machine.enable p { y with cr := cr }).1 := by
  unfold Machine.enable
  split
  · exact .cr cr y.reload y.disabling y.passes y.teCause
  · exact .cr _ _ y.disabling _ _

theorem RegMove.disable (p : Params) (y : Stream) (cr : Word) :
    RegMove y .cr (Machine.disable p { y with cr := cr }) := by
  unfold Machine.disable
  split
  · exact .cr _ y.reload y.disabling y.passes y.teCause
  · exact .cr cr y.reload true y.passes y.teCause

theorem RegMove.writeCrInactive (p : Params) (v : Word) (y : Stream) :
    RegMove y .cr (Machine.writeCrInactive p v y).1 := by
  unfold Machine.writeCrInactive
  split
  · exact .keep _
  · split
    · exact .enable p y _
    · exact .cr _ y.reload y.disabling y.passes y.teCause

theorem RegMove.writeCrActive (p : Params) (v : Word) (y : Stream) :
    RegMove y .cr (Machine.writeCrActive p v y).1 := by
  unfold Machine.writeCrActive
  split
  · exact .keep _
  · split
    · exact .keep _
    · split
      · exact .disable p y _
      · exact .cr _ y.reload y.disabling y.passes y.teCause

theorem RegMove.writeNdtr (v : Word) (y : Stream) : RegMove y .ndtr (Machine.writeNdtr v y).1 := by
  unfold Machine.writeNdtr
  split
  · exact .keep _
  · split
    · exact .keep _
    · exact .ndtr _

theorem RegMove.writePar (v : Word) (y : Stream) : RegMove y .par (Machine.writePar v y).1 := by
  unfold Machine.writePar
  split
  · exact .keep _
  · exact .par v

theorem RegMove.writeMar (j : Bool) (v : Word) (y : Stream) :
    RegMove y (if j then .m1ar else .m0ar) (Machine.writeMar j v y).1 := by
  cases hw : addrWritable j y
  · rw [writeMar_locked v hw]
    exact .keep _
  · rw [writeMar_taken v hw]
    cases j
    · exact .m0ar v
    · exact .m1ar v

theorem RegMove.writeStreamReg (p : Params) (q : SReg) (v : Word) (y : Stream) :
    RegMove y q (Machine.writeStreamReg p q v y).1 := by
  cases q with
  | cr =>
    cases ha : y.active
    · rw [writeStreamReg_cr_inactive p v ha]
      exact .writeCrInactive p v y
    · rw [writeStreamReg_cr_active p v ha]
      exact .writeCrActive p v y
  | ndtr => exact .writeNdtr v y
  | par => exact .writePar v y
  | m0ar => exact .writeMar false v y
  | m1ar => exact .writeMar true v y
  | fcr => exact .keep _

/-- A raw write of a stream register, barred or not, moves its own stream and changes beside it only the faults, the
trace and what is handed back. -/
theorem rawWrite_stream_frame (s : State) (c : Ctrl) (x : StreamIx) (q : SReg) (v : Word) :
    ∃ z l tr r, RegMove (s.stream c x) q z ∧
      s.rawWrite c (.stream x q) v = { s.setStream c x z with faults := l, trace := tr, ret := r } := by
  cases hb : (s.stream c x).fsm.replacing
  · have hmove := RegMove.writeStreamReg s.params q v (s.stream c x)
    cases hw : Machine.writeStreamReg s.params q v (s.stream c x) with
    | mk z f =>
      rw [hw] at hmove
      cases f with
      | none => exact ⟨z, _, _, _, hmove, rawWrite_ok hb hw⟩
      | some f => exact ⟨z, _, _, _, hmove, rawWrite_fault hb hw⟩
  · refine ⟨_, insertFault .notOwner s.faults, s.trace, .faulted .notOwner, .keep q, ?_⟩
    rw [setStream_self]
    exact rawWrite_barred hb

/-- Settles O19: a write moves its own stream by a `RegMove`, which keeps every field but the written register's. -/
theorem streamWriteFrame : Obligations.StreamWriteFrame := by
  intro s t c x q v h
  obtain ⟨z, l, tr, r, hmove, hwrite⟩ := rawWrite_stream_frame s c x q v
  rw [exec_wrInstr, hwrite] at h
  cases h
  refine ⟨fun c' x' => stream_setStream_ne s c c' x x' z, ?_⟩
  have hown : ({ s.setStream c x z with faults := l, trace := tr, ret := r } : State).stream c x = z :=
    stream_setStream_self s c x z
  rw [hown]
  cases hmove <;> simp

end Sys2Proof.Machine

namespace Sys2Proof.Machine

/-! ## The invariant under host moves -/

/-- Every change of the controller FSM keeps the buffers of a double transfer equal (R34). -/
theorem FsmStep.pairOk {f g : Fsm} (h : FsmStep f g) (hf : f.pairOk) : g.pairOk := by
  intro r hr
  cases h with
  | same => exact hf r hr
  | release => cases hr
  | single => cases hr
  | double r₀ hl hw => cases hr; exact ⟨hl, hw⟩
  | start =>
    cases f with
    | idle => cases hr
    | single r₀ => cases hr
    | double r₀ => cases hr; exact hf r₀ rfl
  | seen => cases hr
  | replacing r₀ k => cases hr; exact hf r₀ rfl
  | install r₀ old ct nb hok =>
    cases hr
    obtain ⟨hl, hw⟩ := hf r₀ rfl
    simp only [replacementOk, Bool.and_eq_true, decide_eq_true_eq] at hok
    obtain ⟨hlen, hwidth⟩ := hok
    cases old
    · exact ⟨hlen.trans hl, hwidth.trans hw⟩
    · exact ⟨hl.trans hlen.symm, hw.trans hwidth.symm⟩

/-- A disabled stream meets the invariant as soon as no disable is pending, its reserved bits are 0 and its buffers are
equal: the other clauses speak of enabled streams. -/
theorem Stream.Inv.of_disabled {p : Params} {y : Stream} (hen : crEn y.cr = false) (hdis : y.disabling = false)
    (hrsv : y.cr &&& rsvCr = 0) (hpair : y.fsm.pairOk) : y.Inv p where
  run h := absurd (hen.symm.trans h) Bool.false_ne_true
  drain h := absurd (hdis.symm.trans h) Bool.false_ne_true
  error _ := hen
  reserved := hrsv
  pair := hpair

/-- A stream that is not active is disabled and has no disable pending. -/
theorem Stream.Inv.of_not_active {p : Params} {y : Stream} (ha : y.active = false) (hrsv : y.cr &&& rsvCr = 0)
    (hpair : y.fsm.pairOk) : y.Inv p :=
  have ⟨hen, hdis⟩ := active_eq_false_iff.1 ha
  .of_disabled hen hdis hrsv hpair

/-- Under the invariant an active stream is enabled, since only an enabled one has a disable pending (R29). -/
theorem Stream.Inv.crEn_of_active {p : Params} {y : Stream} (h : y.Inv p) (ha : y.active = true) : crEn y.cr = true :=
  (active_eq_true_iff.1 ha).elim id fun hdis => (h.drain hdis).1

theorem Stream.Inv.fsm {p : Params} {y : Stream} (h : y.Inv p) {f : Fsm} (hf : f.pairOk) : { y with fsm := f }.Inv p :=
  { run := h.run, drain := h.drain, error := h.error, reserved := h.reserved, pair := hf }

/-- Clearing flags keeps the invariant: TEIF can only go down. -/
theorem Stream.Inv.clearFlagsOf {p : Params} {y : Stream} (h : y.Inv p) (x : StreamIx) (v : Word) :
    (clearFlagsOf x v y).Inv p where
  run := h.run
  drain := h.drain
  error hte := h.error (Bool.and_eq_true_iff.1 hte).1
  reserved := h.reserved
  pair := h.pair

/-- What the enable checks establish (R83): the configuration and the count of a running engine, and no error. -/
theorem enChecks_none {p : Params} {y : Stream} (h : enChecks p y = none) :
    cfgUnmodelled y.cr = false ∧ 1 ≤ y.ndtr.toNat ∧ y.teif = false := by
  unfold enChecks at h
  split at h
  · cases h
  · next hcfg =>
    split at h
    · cases h
    · next hcount =>
      split at h
      · cases h
      · next hflags =>
        simp only [Bool.or_eq_true, not_or, Bool.not_eq_true] at hcfg hflags
        have hpos : y.ndtr.toNat ≠ 0 := fun h0 => hcount (BitVec.eq_of_toNat_eq h0)
        exact ⟨hcfg, by omega, hflags.2⟩

/-- ENABLE, refused or taken, keeps the invariant of a stream with no disable pending. -/
theorem Stream.Inv.enable {p : Params} {y : Stream} (h : y.Inv p) (hdis : y.disabling = false) :
    (enable p y).1.Inv p := by
  cases hc : enChecks p y with
  | some f => rw [enable_refused hc]; exact h
  | none =>
    obtain ⟨hcfg, hpos, hte⟩ := enChecks_none hc
    rw [enable_taken hc]
    exact
      { run := fun _ => ⟨by simp [Stream.countsOk, hpos], by simpa using hcfg⟩
        drain := fun h => absurd (hdis.symm.trans h) Bool.false_ne_true
        error := fun h => absurd (hte.symm.trans h) Bool.false_ne_true
        reserved := reserved_crEnable h.reserved
        pair := h.pair }

/-- DISABLE of an enabled stream keeps the invariant: at once, or pending in drain mode (R85). -/
theorem Stream.Inv.disable {p : Params} {y : Stream} (h : y.Inv p) (hen : crEn y.cr = true)
    (hdis : y.disabling = false) : (disable p y).Inv p := by
  rw [disable_eq]
  split
  · exact .of_disabled (crEn_crDisable _) hdis (reserved_crDisable h.reserved) h.pair
  · next hmode =>
    have hdrain : p.disableMode = .drain := by
      cases hm : p.disableMode
      · exact absurd hm hmode
      · rfl
    exact { run := h.run, drain := fun _ => ⟨hen, hdrain⟩, error := h.error, reserved := h.reserved, pair := h.pair }

/-- Taking new interrupt enables touches no field that the invariant speaks of. -/
theorem Stream.Inv.takeIe {p : Params} {y : Stream} (h : y.Inv p) {v : Word} (hv : v &&& rsvCr = 0) :
    { y with cr := crTakeIe y.cr v }.Inv p where
  run hen := by simpa [Stream.countsOk] using h.run (by simpa using hen)
  drain hdis := by simpa using h.drain hdis
  error hte := by simpa using h.error hte
  reserved := reserved_crTakeIe h.reserved hv
  pair := h.pair

theorem Stream.Inv.writeCrInactive {p : Params} {y : Stream} (h : y.Inv p) (ha : y.active = false) (v : Word) :
    (writeCrInactive p v y).1.Inv p := by
  obtain ⟨-, hdis⟩ := active_eq_false_iff.1 ha
  have hstored (hv : v &&& rsvCr = 0) : Stream.Inv p { y with cr := crDisable v } :=
    .of_disabled (crEn_crDisable v) hdis (reserved_crDisable hv) h.pair
  by_cases hv : v &&& rsvCr = 0
  · cases hen : crEn v
    · rw [writeCrInactive_configure p y hv hen]; exact hstored hv
    · rw [writeCrInactive_enable p y hv hen]; exact (hstored hv).enable hdis
  · rw [writeCrInactive_reserved p y hv]; exact h

theorem Stream.Inv.writeCrActive {p : Params} {y : Stream} (h : y.Inv p) (ha : y.active = true) (v : Word) :
    (writeCrActive p v y).1.Inv p := by
  by_cases hv : v &&& rsvCr = 0
  · by_cases hprot : v &&& protMask = y.cr &&& protMask
    · by_cases hkeep : crEn v = true ∨ y.disabling = true
      · rw [writeCrActive_keeps p hv hprot hkeep]; exact h.takeIe hv
      · simp only [not_or, Bool.not_eq_true] at hkeep
        obtain ⟨hen, hdis⟩ := hkeep
        rw [writeCrActive_disables p hv hprot hen hdis]
        exact (h.takeIe hv).disable (by simpa using h.crEn_of_active ha) hdis
    · rw [writeCrActive_protected p hv hprot]; exact h
  · rw [writeCrActive_reserved p y hv]; exact h

/-- The count register is written on streams that are not active only, of which no count is asked (R87). -/
theorem Stream.Inv.writeNdtr {p : Params} {y : Stream} (h : y.Inv p) (v : Word) : (writeNdtr v y).1.Inv p := by
  unfold Machine.writeNdtr
  split
  · exact h
  · split
    · exact h
    · next ha => exact .of_not_active (y := { y with ndtr := v.setWidth 16 }) (Bool.eq_false_iff.2 ha) h.reserved h.pair

theorem Stream.Inv.writePar {p : Params} {y : Stream} (h : y.Inv p) (v : Word) : (writePar v y).1.Inv p := by
  unfold Machine.writePar
  split
  · exact h
  · exact ⟨h.run, h.drain, h.error, h.reserved, h.pair⟩

theorem Stream.Inv.writeMar {p : Params} {y : Stream} (h : y.Inv p) (j : Bool) (v : Word) :
    (writeMar j v y).1.Inv p := by
  cases hw : addrWritable j y
  · rw [writeMar_locked v hw]; exact h
  · rw [writeMar_taken v hw]
    cases j
    · exact ⟨h.run, h.drain, h.error, h.reserved, h.pair⟩
    · exact ⟨h.run, h.drain, h.error, h.reserved, h.pair⟩

/-- A register write keeps the invariant. -/
theorem Stream.Inv.writeStreamReg {p : Params} {y : Stream} (h : y.Inv p) (r : SReg) (v : Word) :
    (writeStreamReg p r v y).1.Inv p := by
  cases r with
  | cr =>
    cases ha : y.active
    · rw [writeStreamReg_cr_inactive p v ha]; exact h.writeCrInactive ha v
    · rw [writeStreamReg_cr_active p v ha]; exact h.writeCrActive ha v
  | ndtr => exact h.writeNdtr v
  | par => exact h.writePar v
  | m0ar => exact h.writeMar false v
  | m1ar => exact h.writeMar true v
  | fcr => exact h

theorem HostMove.inv {p : Params} {y z : Stream} (hmove : HostMove p y z) (h : y.Inv p) : z.Inv p := by
  cases hmove with
  | fsm _ f hstep => exact h.fsm (hstep.pairOk h.pair)
  | write _ r v => exact h.writeStreamReg r v
  | clear x _ v => exact h.clearFlagsOf x v

theorem HostMoves.inv {p : Params} {y z : Stream} (hmoves : HostMoves p y z) (h : y.Inv p) : z.Inv p := by
  induction hmoves with
  | refl => exact h
  | tail _ hmove ih => exact hmove.inv ih

/-! ## The invariant under engine events -/

/-- The last element of a pass reloads the count, or stops the stream (R98). -/
theorem Stream.Inv.boundary {p : Params} {y : Stream} (h : y.Inv p) (hdis : y.disabling = false)
    (hcounts : y.countsOk = true) : (boundary y).Inv p := by
  unfold Machine.boundary
  split
  · have hreload : 1 ≤ y.reload.toNat := by
      simp only [Stream.countsOk, Bool.and_eq_true, decide_eq_true_eq] at hcounts
      omega
    have hen : crEn (if crDbm y.cr then crToggleCt y.cr else y.cr) = crEn y.cr := by split <;> simp
    have hcfg : cfgUnmodelled (if crDbm y.cr then crToggleCt y.cr else y.cr) = cfgUnmodelled y.cr := by
      split <;> simp
    exact
      { run := fun hz => ⟨by simp [Stream.countsOk, hreload], hcfg.trans (h.run (hen.symm.trans hz)).2⟩
        drain := fun hz => absurd (hdis.symm.trans hz) Bool.false_ne_true
        error := fun hte => hen.trans (h.error hte)
        reserved := by
          change (if crDbm y.cr then crToggleCt y.cr else y.cr) &&& rsvCr = 0
          split
          · exact reserved_crToggleCt h.reserved
          · exact h.reserved
        pair := h.pair }
  · exact .of_disabled (crEn_crDisable _) hdis (reserved_crDisable h.reserved) h.pair

theorem Stream.Inv.afterMove {p : Params} {y : Stream} (h : y.Inv p) (pa pb : Nat) (v : Word) :
    (afterMove p pa pb v y).Inv p :=
  ⟨h.run, h.drain, h.error, h.reserved, h.pair⟩

/-- Before the last element of a pass the count stays above 0; the last one is the boundary (R96). -/
theorem Stream.Inv.moveElement {p : Params} {y : Stream} (h : y.Inv p) (hdis : y.disabling = false)
    (hcounts : y.countsOk = true) (pa pb : Nat) (v : Word) : (moveElement p pa pb v y).Inv p := by
  unfold Machine.moveElement
  split
  · exact (h.afterMove pa pb v).boundary hdis hcounts
  · next hmore =>
    simp only [Stream.countsOk, Bool.and_eq_true, decide_eq_true_eq] at hcounts
    have hcount : (y.ndtr - 1).toNat = y.ndtr.toNat - 1 := BitVec.toNat_sub_of_le (by bv_omega)
    exact
      { run := fun hen => ⟨by
          simp only [Stream.countsOk, Bool.and_eq_true, decide_eq_true_eq, Machine.afterMove, hcount]
          omega, (h.run hen).2⟩
        drain := h.drain
        error := h.error
        reserved := h.reserved
        pair := h.pair }

/-- An engine event keeps its stream's invariant: a transfer error and a drain's end disable it. -/
theorem EngineMove.inv {p : Params} {y z : Stream} (hmove : EngineMove p y z) (h : y.Inv p) : z.Inv p := by
  cases hmove with
  | element mb pb v hrun hcounts => exact h.moveElement (engine_running hrun).2 hcounts _ _ v
  | error cause _ =>
    exact .of_disabled (y := transferError cause y) (crEn_crDisable _) rfl (reserved_crDisable h.reserved) h.pair
  | drained _ _ =>
    exact .of_disabled (y := drainDone y) (crEn_crDisable _) rfl (reserved_crDisable h.reserved) h.pair

theorem EngineEffect.mem {s t : State} {c : Ctrl} {x : StreamIx} (h : EngineEffect s c x t) : t.mem = s.mem := by
  cases h <;> rfl

/-! ## The invariant of the machine -/

theorem EngineEffect.inv {s t : State} {c : Ctrl} {x : StreamIx} (heff : EngineEffect s c x t) (h : s.Inv) :
    t.Inv where
  mem := heff.mem ▸ h.mem
  streams c' x' := by
    cases heff with
    | mark f _ => exact h.streams c' x'
    | move y hmove =>
      rw [stream_setStream]
      split
      · exact hmove.inv (h.streams c x)
      · exact h.streams c' x'

theorem HostEffect.inv {s t : State} (heff : HostEffect s t) (h : s.Inv) : t.Inv where
  mem := heff.mem h.mem
  streams c x := heff.params ▸ (heff.streams c x).inv (h.streams c x)

/-- The invariant does not speak of the agenda. -/
theorem State.Inv.inputs {s : State} (h : s.Inv) (l : List Input) : { s with inputs := l }.Inv :=
  ⟨h.streams, h.mem⟩

/-- Settles O47: host moves and engine moves keep each stream's invariant, and host writes the form of memory. -/
theorem stepKeepsInvariant : Obligations.StepKeepsInvariant := by
  intro s t h hstep
  obtain ⟨c, x, l, -, heff⟩ | ⟨-, heff⟩ := step_effect hstep
  · exact heff.inv (h.inputs l)
  · exact heff.inv h

end Sys2Proof.Machine

namespace Sys2Proof.Machine

/-! ## When an event is a step -/

/-- An engine is Running exactly when its stream is enabled with no disable pending (R93). -/
theorem engine_eq_running_iff {y : Stream} :
    y.engine = some .running ↔ crEn y.cr = true ∧ y.disabling = false := by
  refine ⟨engine_running, fun ⟨hen, hdis⟩ => ?_⟩
  simp only [Stream.engine, hen, hdis]

theorem accessEnabled_iff {y : Stream} {d : Draw} {a : BusAnswer} :
    accessEnabled y d a = true ↔ (crEn y.cr = true ∧ y.disabling = false) ∧ d.dreq = true ∧ d.answer = a := by
  simp only [accessEnabled, engine_eq_running_iff, Bool.and_eq_true, decide_eq_true_eq, and_assoc]

/-- No element access takes place on a stream that is not running, without DREQ, or with another answer (R72). -/
theorem accessEnabled_eq_false {y : Stream} {d : Draw} {a : BusAnswer}
    (h : crEn y.cr = false ∨ y.disabling = true ∨ d.dreq = false ∨ d.answer ≠ a) : accessEnabled y d a = false := by
  refine Bool.eq_false_iff.2 fun he => ?_
  obtain ⟨⟨hen, hdis⟩, hdreq, hans⟩ := accessEnabled_iff.1 he
  rcases h with h | h | h | h
  · exact Bool.false_ne_true (h.symm.trans hen)
  · exact Bool.false_ne_true (hdis.symm.trans h)
  · exact Bool.false_ne_true (h.symm.trans hdreq)
  · exact h hans

theorem exec_evElement (s : State) (c : Ctrl) (x : StreamIx) (d : Draw) :
    exec (.evElement c x d) s = if accessEnabled (s.stream c x) d .ok then elementStep c x s else .fault .notEnabled :=
  rfl

theorem exec_evBusError (s : State) (c : Ctrl) (x : StreamIx) (d : Draw) :
    exec (.evBusError c x d) s =
      if accessEnabled (s.stream c x) d .error then .next (s.setStream c x (transferError .bus (s.stream c x)))
      else .fault .notEnabled :=
  rfl

theorem exec_evArbError (s : State) (c : Ctrl) (x : StreamIx) :
    exec (.evArbError c x) s =
      if crEn (s.stream c x).cr then .next (s.setStream c x (transferError .arb (s.stream c x)))
      else .fault .notEnabled :=
  rfl

theorem exec_evDrainDone (s : State) (c : Ctrl) (x : StreamIx) :
    exec (.evDrainDone c x) s =
      if decide (s.params.disableMode = .drain) && (s.stream c x).disabling then
        .next (s.setStream c x (drainDone (s.stream c x)))
      else .fault .notEnabled :=
  rfl

/-- Settles O23: each event is a test of its condition, which the hypothesis makes false. -/
theorem eventsNeedTheirCondition : Obligations.EventsNeedTheirCondition := by
  rintro s c x d _ rfl
  refine ⟨fun h => ?_, fun h => ?_, fun hen => ?_, fun h => ?_⟩
  · rw [exec_evElement, accessEnabled_eq_false (h.imp_right (.imp_right (.imp_right fun ha => by simp [ha])))]
    rfl
  · rw [exec_evBusError, accessEnabled_eq_false (h.imp_right (.imp_right (.imp_right fun ha => by simp [ha])))]
    rfl
  · rw [exec_evArbError, crEn, hen]
    rfl
  · rw [exec_evDrainDone]
    rcases h with hmode | hdis
    · simp [hmode]
    · simp [hdis]

/-! ## Transfer errors and drains -/

/-- Settles O21: both events are enabled and store `transferError`. -/
theorem transferErrorStopsStream : Obligations.TransferErrorStopsStream := by
  rintro s c x _ rfl hen
  refine ⟨fun hdis => ?_, ?_⟩
  · rw [exec_evBusError, accessEnabled_iff.2 ⟨⟨hen, hdis⟩, rfl, rfl⟩]
    rfl
  · rw [exec_evArbError, crEn, hen]
    rfl

/-- Settles O22: the event is enabled and stores `drainDone`. -/
theorem drainDoneDisablesStream : Obligations.DrainDoneDisablesStream := by
  rintro s c x _ rfl hmode hdis
  rw [exec_evDrainDone, hmode, hdis]
  rfl

/-! ## One element -/

/-- An element-size code other than `11` has the width that is its power of two (R64). -/
theorem bytesOf_eq_pow {code : BitVec 2} (h : code.toNat < 3) : bytesOf code = some (2 ^ code.toNat) := by
  revert code
  decide

theorem exec_evElement_running {s : State} {c : Ctrl} {x : StreamIx} (hen : crEn (s.stream c x).cr = true)
    (hdis : (s.stream c x).disabling = false) :
    exec (.evElement c x { dreq := true, answer := .ok }) s = elementStep c x s := by
  rw [exec_evElement, accessEnabled_iff.2 ⟨⟨hen, hdis⟩, rfl, rfl⟩]
  rfl

/-- An element step of an engine whose registers are as R94 says: F13, then F12, then the transfer (R96). -/
theorem elementStep_eq {s : State} {c : Ctrl} {x : StreamIx} {y : Stream} {mb pb : Nat} (hy : y = s.stream c x)
    (hmb : bytesOf (crMsize y.cr) = some mb) (hpb : bytesOf (crPsize y.cr) = some pb) (hcounts : y.countsOk = true) :
    elementStep c x s =
      if 4294967296 < y.maddr mb + mb ∨ 4294967296 < y.paddr pb + pb then .next (s.raise .addrWrap)
      else if y.maddr mb % mb ≠ 0 ∨ y.paddr pb % pb ≠ 0 then .next (s.raise .misaligned)
      else .next (s.setStream c x (moveElement s.params (y.paddr pb) pb (memRead s.mem (y.maddr mb) mb) y)) := by
  subst hy
  simp only [elementStep, hmb, hpb, hcounts, wraps_iff, Bool.not_true, Bool.false_eq_true, if_false, Bool.or_eq_true,
    decide_eq_true_eq]

/-- An element before the last of its pass: one entry, the half point, one count less (R96, R97). -/
theorem moveElement_more (p : Params) (pa pb : Nat) (v : Word) {y : Stream} (h : 1 < y.ndtr.toNat) :
    moveElement p pa pb v y = { afterMove p pa pb v y with ndtr := y.ndtr - 1 } :=
  if_neg (by omega)

/-- The last element of a pass is the boundary (R98). -/
theorem moveElement_last (p : Params) (pa pb : Nat) (v : Word) {y : Stream} (h : y.ndtr.toNat = 1) :
    moveElement p pa pb v y = boundary (afterMove p pa pb v y) :=
  if_pos (by omega)

/-- In circular mode the boundary reloads the count, and in double-buffer mode toggles CT (R98, R99). -/
theorem boundary_circular {y : Stream} (h : crCirc y.cr = true) :
    boundary y = { y with
      tcif := true
      passes := y.passes + 1
      ndtr := y.reload
      cr := if crDbm y.cr then crToggleCt y.cr else y.cr } :=
  if_pos h

/-- Otherwise the boundary stops the stream (R98). -/
theorem boundary_stops {y : Stream} (h : crCirc y.cr = false) :
    boundary y = { y with tcif := true, passes := y.passes + 1, ndtr := 0, cr := crDisable y.cr } :=
  if_neg (Bool.eq_false_iff.1 h)

/-- The drained buffer is M1AR's in double-buffer mode with CT = 1, else M0AR's (R95). -/
theorem drainBase_eq (y : Stream) :
    y.drainBase = if y.cr.getLsbD 18 = true ∧ y.cr.getLsbD 19 = true then y.m1ar else y.m0ar :=
  if_congr Bool.and_eq_true_iff rfl rfl

/-- Settles O20: an enabled element step is `elementStep_eq`, whose last case is one of three by count and CIRC. -/
theorem elementMovesOneValue : Obligations.ElementMovesOneValue := by
  intro s c x y mb pb i ma pa v half hy hen hdis hpos hle hmsize hpsize hmb hpb hi hma hpa hv hhalf
  have hma' : y.maddr mb = ma := by rw [Stream.maddr, drainBase_eq, hma, hi]; rfl
  have hpa' : y.paddr pb = pa := by rw [hpa, hi]; rfl
  have hcounts : y.countsOk = true := by simp [Stream.countsOk, hpos, hle]
  have hstep := (exec_evElement_running (s := s) (c := c) (x := x) (hy ▸ hen) (hy ▸ hdis)).trans
    (elementStep_eq hy (hmb ▸ bytesOf_eq_pow hmsize) (hpb ▸ bytesOf_eq_pow hpsize) hcounts)
  rw [hma', hpa', ← hv] at hstep
  have hmoves (hm : ma + mb ≤ 4294967296) (hp : pa + pb ≤ 4294967296) (hma0 : ma % mb = 0) (hpa0 : pa % pb = 0) :
      exec (.evElement c x { dreq := true, answer := .ok }) s =
        .next (s.setStream c x (moveElement s.params pa pb v y)) := by
    rw [hstep, if_neg (not_or.2 ⟨Nat.not_lt.2 hm, Nat.not_lt.2 hp⟩),
      if_neg (not_or.2 ⟨not_not_intro hma0, not_not_intro hpa0⟩)]
  subst hhalf
  refine ⟨fun hwrap => hstep.trans (if_pos hwrap), fun hm hp hal => ?_, fun hm hp hma0 hpa0 hmore => ?_,
    fun hm hp hma0 hpa0 hlast hcirc => ?_, fun hm hp hma0 hpa0 hlast hcirc => ?_⟩
  · rw [hstep, if_neg (not_or.2 ⟨Nat.not_lt.2 hm, Nat.not_lt.2 hp⟩), if_pos hal]
  · rw [hmoves hm hp hma0 hpa0, moveElement_more _ _ _ _ hmore]
    rfl
  · rw [hmoves hm hp hma0 hpa0, moveElement_last _ _ _ _ hlast,
      boundary_circular (y := afterMove s.params pa pb v y) hcirc]
    rfl
  · rw [hmoves hm hp hma0 hpa0, moveElement_last _ _ _ _ hlast,
      boundary_stops (y := afterMove s.params pa pb v y) hcirc]
    rfl

/-! ## The frame of an event -/

/-- What an engine move leaves of its stream: the address registers, the reload value, the controller FSM, and all of
SxCR but EN and CT (R96, R98, R100, R101). -/
structure EngineKeeps (y z : Stream) : Prop where
  par : z.par = y.par
  m0ar : z.m0ar = y.m0ar
  m1ar : z.m1ar = y.m1ar
  reload : z.reload = y.reload
  fsm : z.fsm = y.fsm
  cr : z.cr &&& 0xFFF7FFFE = y.cr &&& 0xFFF7FFFE

theorem EngineKeeps.refl (y : Stream) : EngineKeeps y y :=
  ⟨rfl, rfl, rfl, rfl, rfl, rfl⟩

/-- Clearing EN leaves the other bits of SxCR. -/
theorem crDisable_and_frame (cr : Word) : crDisable cr &&& 0xFFF7FFFE = cr &&& 0xFFF7FFFE := by
  rw [crDisable, BitVec.and_assoc]
  rfl

/-- Toggling CT leaves the other bits of SxCR. -/
theorem crToggleCt_and_frame (cr : Word) : crToggleCt cr &&& 0xFFF7FFFE = cr &&& 0xFFF7FFFE := by
  have hct : ∀ i, i < 32 → (0xFFF7FFFE : Word).getLsbD i = true → ctBit.getLsbD i = false := by decide
  refine and_cr_ext fun i hi hmask => ?_
  rw [crToggleCt, BitVec.getLsbD_xor, hct i hi hmask, Bool.xor_false]

theorem EngineKeeps.boundary (y : Stream) : EngineKeeps y (boundary y) := by
  cases hcirc : crCirc y.cr
  · rw [boundary_stops hcirc]
    exact ⟨rfl, rfl, rfl, rfl, rfl, crDisable_and_frame _⟩
  · rw [boundary_circular hcirc]
    refine ⟨rfl, rfl, rfl, rfl, rfl, ?_⟩
    dsimp only
    split
    · exact crToggleCt_and_frame _
    · rfl

theorem EngineKeeps.moveElement (p : Params) (pa pb : Nat) (v : Word) (y : Stream) :
    EngineKeeps y (moveElement p pa pb v y) := by
  unfold Machine.moveElement
  split
  · have h := EngineKeeps.boundary (afterMove p pa pb v y)
    exact ⟨h.par, h.m0ar, h.m1ar, h.reload, h.fsm, h.cr⟩
  · exact ⟨rfl, rfl, rfl, rfl, rfl, rfl⟩

theorem EngineMove.keeps {p : Params} {y z : Stream} (h : EngineMove p y z) : EngineKeeps y z := by
  cases h with
  | element mb pb v => exact .moveElement p _ pb v y
  | error cause _ => exact ⟨rfl, rfl, rfl, rfl, rfl, crDisable_and_frame _⟩
  | drained _ _ => exact ⟨rfl, rfl, rfl, rfl, rfl, crDisable_and_frame _⟩

/-- An engine effect on (c, x) leaves every other stream as it was. -/
theorem EngineEffect.stream_ne {s t : State} {c c' : Ctrl} {x x' : StreamIx} (h : EngineEffect s c x t)
    (hne : ¬(c' = c ∧ x' = x)) : t.stream c' x' = s.stream c' x' := by
  cases h with
  | mark f _ => rfl
  | move y _ => exact stream_setStream_ne s c c' x x' y hne

theorem EngineEffect.stream_keeps {s t : State} {c : Ctrl} {x : StreamIx} (h : EngineEffect s c x t) :
    EngineKeeps (s.stream c x) (t.stream c x) := by
  cases h with
  | mark f _ => exact .refl _
  | move y hmove => rw [stream_setStream_self]; exact hmove.keeps

/-- An engine effect leaves the host where it is: its requests, what they returned, and the agenda. -/
theorem EngineEffect.host {s t : State} {c : Ctrl} {x : StreamIx} (h : EngineEffect s c x t) :
    t.stack = s.stack ∧ t.ret = s.ret ∧ t.inputs = s.inputs := by
  cases h <;> exact ⟨rfl, rfl, rfl⟩

/-- An engine's instruction has an engine effect on that engine's stream. -/
theorem exec_engine_effect {i : Instr} {s t : State} {c : Ctrl} {x : StreamIx}
    (hi : Instr.engineOf i = some (c, x)) (h : exec i s = .next t) : EngineEffect s c x t := by
  obtain ⟨c', x', he, heff⟩ | ⟨he, -⟩ := exec_effect h
  · cases hi.symm.trans he
    exact heff
  · cases hi.symm.trans he

/-- Settles O24: each of the four events has an engine effect on (c, x). -/
theorem engineEventFrame : Obligations.EngineEventFrame := by
  intro s t c x d i hi h
  have hof : Instr.engineOf i = some (c, x) := by
    simp only [List.mem_cons, List.not_mem_nil, or_false] at hi
    rcases hi with rfl | rfl | rfl | rfl <;> rfl
  have heff := exec_engine_effect hof h
  obtain ⟨hpar, hm0ar, hm1ar, hreload, hfsm, hcr⟩ := heff.stream_keeps
  obtain ⟨hstack, hret, hinputs⟩ := heff.host
  exact ⟨fun c' x' => heff.stream_ne, hpar, hm0ar, hm1ar, hreload, hfsm, hcr, fun a => by rw [heff.mem], heff.trace,
    hstack, hret, hinputs, heff.params⟩

/-! ## Status flags (R102) -/

/-- Every flag that is set in `y` is set in `z`. -/
def FlagsLe (y z : Stream) : Prop :=
  (y.tcif = true → z.tcif = true) ∧ (y.htif = true → z.htif = true) ∧ (y.teif = true → z.teif = true)

theorem FlagsLe.refl (y : Stream) : FlagsLe y y :=
  ⟨id, id, id⟩

theorem FlagsLe.trans {y z w : Stream} (h : FlagsLe y z) (h' : FlagsLe z w) : FlagsLe y w :=
  have ⟨htc, hht, hte⟩ := h
  have ⟨htc', hht', hte'⟩ := h'
  ⟨htc' ∘ htc, hht' ∘ hht, hte' ∘ hte⟩

theorem FlagsLe.boundary (y : Stream) : FlagsLe y (boundary y) := by
  unfold Machine.boundary
  split <;> exact ⟨fun _ => rfl, id, id⟩

theorem FlagsLe.afterMove (p : Params) (pa pb : Nat) (v : Word) (y : Stream) : FlagsLe y (afterMove p pa pb v y) :=
  ⟨id, fun h => Bool.or_eq_true_iff.2 (.inl h), id⟩

theorem FlagsLe.moveElement (p : Params) (pa pb : Nat) (v : Word) (y : Stream) :
    FlagsLe y (moveElement p pa pb v y) := by
  unfold Machine.moveElement
  split
  · exact (FlagsLe.afterMove p pa pb v y).trans (.boundary _)
  · exact .afterMove p pa pb v y

/-- An engine move clears no flag. -/
theorem EngineMove.flagsLe {p : Params} {y z : Stream} (h : EngineMove p y z) : FlagsLe y z := by
  cases h with
  | element mb pb v => exact .moveElement p _ pb v y
  | error cause _ => exact ⟨id, id, fun _ => rfl⟩
  | drained _ _ => exact ⟨fun _ => rfl, id, id⟩

theorem RegMove.flagsLe {y z : Stream} {q : SReg} (h : RegMove y q z) : FlagsLe z y := by
  cases h <;> exact ⟨id, id, id⟩

theorem FlagsLe.clearFlagsOf (x : StreamIx) (v : Word) (y : Stream) : FlagsLe (clearFlagsOf x v y) y :=
  ⟨fun h => (Bool.and_eq_true_iff.1 h).1, fun h => (Bool.and_eq_true_iff.1 h).1,
    fun h => (Bool.and_eq_true_iff.1 h).1⟩

/-- A host move sets no flag. -/
theorem HostMove.flagsLe {p : Params} {y z : Stream} (h : HostMove p y z) : FlagsLe z y := by
  cases h with
  | fsm _ f _ => exact ⟨id, id, id⟩
  | write _ r v => exact (RegMove.writeStreamReg p r v y).flagsLe
  | clear x _ v => exact .clearFlagsOf x v y

theorem HostMoves.flagsLe {p : Params} {y z : Stream} (h : HostMoves p y z) : FlagsLe z y := by
  induction h with
  | refl => exact .refl y
  | tail _ hmove ih => exact hmove.flagsLe.trans ih

theorem EngineEffect.flagsLe {s t : State} {c : Ctrl} {x : StreamIx} (h : EngineEffect s c x t) (c' : Ctrl)
    (x' : StreamIx) : FlagsLe (s.stream c' x') (t.stream c' x') := by
  cases h with
  | mark f _ => exact .refl _
  | move y hmove =>
    rw [stream_setStream]
    split
    · next e => rw [e.1, e.2]; exact hmove.flagsLe
    · exact .refl _

/-- A step that takes an event has an engine effect. -/
theorem step_engine_effect {s t : State} (h : step s = .next t)
    (hev : ∃ ev d rest, s.inputs = .event ev d :: rest) : ∃ c x l, EngineEffect { s with inputs := l } c x t := by
  obtain ⟨c, x, l, -, heff⟩ | ⟨hno, -⟩ := step_effect h
  · exact ⟨c, x, l, heff⟩
  · exact absurd (hno.symm.trans ((eventNext_iff s).2 hev)) Bool.false_ne_true

/-- Settles O49: an event's engine move clears no flag, and the host moves of any other step set none. -/
theorem engineSetsAndHostClearsFlags : Obligations.EngineSetsAndHostClearsFlags := by
  intro s t h c x
  refine ⟨fun hev => ?_, fun hno => ((step_host_effect h hno).streams c x).flagsLe⟩
  obtain ⟨c₀, x₀, l, heff⟩ := step_engine_effect h hev
  exact heff.flagsLe c x

end Sys2Proof.Machine

namespace Sys2Proof.Machine

/-! ## Requests that ownership refuses (R106, R134) -/

theorem needIdle_idle {c : Ctrl} {x : StreamIx} {s k : State} (h : (s.stream c x).fsm = .idle) :
    needIdle c x s k = .next k := by
  rw [needIdle, h]

theorem needIdle_refused {c : Ctrl} {x : StreamIx} {s k : State} (h : (s.stream c x).fsm ≠ .idle) :
    needIdle c x s k = .next (s.refusedBy .notOwner) := by
  unfold needIdle
  split
  · next he => exact absurd he h
  · rfl
  · rfl

theorem needSingle_refused {c : Ctrl} {x : StreamIx} {s : State} {k : SingleRec → State}
    (h : ∀ r, (s.stream c x).fsm ≠ .single r) : needSingle c x s k = .next (s.refusedBy .notOwner) := by
  unfold needSingle
  split
  · rfl
  · next r he => exact absurd he (h r)
  · rfl

theorem needDouble_refused {c : Ctrl} {x : StreamIx} {s k : State}
    (h : ∀ r, (s.stream c x).fsm = .double r → r.inReplace ≠ none) :
    needDouble c x s k = .next (s.refusedBy .notOwner) := by
  unfold needDouble
  split
  · rfl
  · rfl
  · next r he => exact if_pos (Option.isSome_iff_ne_none.2 (h r he))

theorem needChan_ok {chan : Nat} {s : State} {k : Host.Outcome State Fault Refusal} (h : chan < 8) :
    needChan chan s k = k :=
  if_pos (decide_eq_true h)

/-- While the stream's own callback runs, its registers are barred (R125, log 15). -/
theorem barred_of_inReplace {s : State} {c : Ctrl} {x : StreamIx} {r : DoubleRec} (q : SReg)
    (hfsm : (s.stream c x).fsm = .double r) (hcb : r.inReplace ≠ none) : s.barred c (.stream x q) = true := by
  rw [State.barred, hfsm]
  exact Option.isSome_iff_ne_none.2 hcb

/-- Settles O25: each request's ownership check comes before its first host step, and the callback's bar before the
register's own rule. -/
theorem wrongOwnerFaults : Obligations.WrongOwnerFaults := by
  rintro s c x _ rfl
  refine ⟨fun hidle i hi => ?_, fun hsingle i hi => ?_, fun hdouble i hi => ?_, fun r hfsm hcb q v => ⟨?_, ?_⟩⟩
  · rcases hi with ⟨e, rfl⟩ | ⟨e, rfl⟩ | rfl | rfl | rfl | ⟨chan, circ, src, tgt, hchan, rfl⟩ |
      ⟨chan, b0, b1, tgt, hchan, rfl⟩
    · exact needIdle_refused hidle
    · exact needIdle_refused hidle
    · exact needIdle_refused hidle
    · exact needIdle_refused hidle
    · exact needIdle_refused hidle
    · exact (needChan_ok hchan).trans (needIdle_refused hidle)
    · exact (needChan_ok hchan).trans (needIdle_refused hidle)
  · simp only [List.mem_cons, List.not_mem_nil, or_false] at hi
    rcases hi with rfl | rfl | rfl | rfl <;> exact needSingle_refused hsingle
  · simp only [List.mem_cons, List.not_mem_nil, or_false] at hi
    rcases hi with rfl | rfl <;> exact needDouble_refused hdouble
  · exact (exec_rdInstr s c _).trans (congrArg _ (rawRead_barred (barred_of_inReplace q hfsm hcb)))
  · exact (exec_wrInstr s c _ v).trans (congrArg _ (rawWrite_barred (barred_of_inReplace q hfsm hcb)))

/-! ## Status queries -/

/-- Settles O27: the query's one read shows the flag its mask asks for. -/
theorem streamQueriesAnswerFlags : Obligations.StreamQueriesAnswerFlags := by
  intro s c x hidle
  refine ⟨(needIdle_idle hidle).trans ?_, (needIdle_idle hidle).trans ?_⟩
  · rw [State.query, hasBits_isrRead_tc]
    rfl
  · rw [State.query, hasBits_isrRead_te]
    rfl

/-! ## SxCR in the invariant: what it reads, and writes of it that keep the protected fields -/

/-- A word is its part outside a mask and its part inside it. -/
theorem outside_or_inside (a m : Word) : (a &&& ~~~m) ||| (a &&& m) = a := by
  rw [← BitVec.and_or_distrib_left, BitVec.not_or_self, BitVec.and_allOnes]

theorem and_not_eq_self {a m : Word} (h : a &&& m = 0) : a &&& ~~~m = a := by
  have hsplit := outside_or_inside a m
  rw [h] at hsplit
  exact BitVec.or_zero.symm.trans hsplit

/-- Two words that agree on a mask agree on every part of it. -/
theorem and_eq_and_of_submask {a b k m : Word} (h : a &&& k = b &&& k) (hm : k &&& m = m) : a &&& m = b &&& m := by
  rw [← hm, ← BitVec.and_assoc, h, BitVec.and_assoc]

theorem crEn_eq_of_and_eq {a b k : Word} (h : a &&& k = b &&& k) (hk : crEn k = true) : crEn a = crEn b := by
  have hbit := congrArg crEn h
  simp only [crEn] at hk hbit ⊢
  rwa [BitVec.getLsbD_and, BitVec.getLsbD_and, hk, Bool.and_true, Bool.and_true] at hbit

theorem crDisable_eq_self {cr : Word} (h : crEn cr = false) : crDisable cr = cr := by
  have hbit : cr &&& enBit = 0 := by
    refine BitVec.and_one_eq_setWidth_ofBool_getLsbD.trans ?_
    rw [show cr.getLsbD 0 = false from h]
    rfl
  exact and_not_eq_self hbit

/-- Taking the interrupt enables of a word that differs in nothing else gives that word. -/
theorem crTakeIe_eq_right {cr v : Word} (h : v &&& ~~~ieMask = cr &&& ~~~ieMask) : crTakeIe cr v = v := by
  rw [crTakeIe, ← h, outside_or_inside]

/-- The interrupt enables of a word that has the same ones change nothing. -/
theorem crTakeIe_eq_left {cr v : Word} (h : v &&& ieMask = cr &&& ieMask) : crTakeIe cr v = cr := by
  rw [crTakeIe, h, outside_or_inside]

/-- In the invariant SxCR reads as stored (R80). -/
theorem Stream.Inv.crRead_eq_cr {p : Params} {y : Stream} (h : y.Inv p) : y.crRead = y.cr := by
  cases ha : y.active
  · exact crRead_inactive ha h.reserved
  · have hkeep : y.cr &&& ~~~rsvCr = y.cr := and_not_eq_self h.reserved
    have hset : crEnable (crDisable y.cr) = y.cr := crEnable_crDisable (h.crEn_of_active ha)
    rw [Stream.crRead, ha, hkeep]
    exact hset

/-- A write that differs from SxCR in interrupt enables alone is stored, and starts and stops nothing (R81, R84). -/
theorem Stream.Inv.writeCr_interruptEnables {p : Params} {y : Stream} (h : y.Inv p) {v : Word}
    (hv : v &&& ~~~ieMask = y.cr &&& ~~~ieMask) : Machine.writeStreamReg p .cr v y = ({ y with cr := v }, none) := by
  have hrsv : v &&& rsvCr = 0 := (and_eq_and_of_submask hv (by decide)).trans h.reserved
  have hprot : v &&& protMask = y.cr &&& protMask := and_eq_and_of_submask hv (by decide)
  have hen : crEn v = crEn y.cr := crEn_eq_of_and_eq hv (by decide)
  cases ha : y.active
  · exact writeCr_configure ha hrsv (hen.trans (active_eq_false_iff.1 ha).1)
  · rw [writeStreamReg_cr_active p v ha,
      writeCrActive_keeps p hrsv hprot (.inl (hen.trans (h.crEn_of_active ha))), crTakeIe_eq_right hv]

/-- A write of SxCR with EN cleared and nothing else changed disables an enabled stream and leaves any other as it is;
a disable that is pending stays so (R81, R84, R85). -/
theorem Stream.Inv.writeCr_crDisable {p : Params} {y : Stream} (h : y.Inv p) :
    Machine.writeStreamReg p .cr (crDisable y.cr) y = (if crEn y.cr then Machine.disable p y else y, none) := by
  have hv : crDisable y.cr &&& ~~~enBit = y.cr &&& ~~~enBit := by
    rw [crDisable, BitVec.and_assoc, BitVec.and_self]
  have hrsv : crDisable y.cr &&& rsvCr = 0 := reserved_crDisable h.reserved
  have hprot : crDisable y.cr &&& protMask = y.cr &&& protMask := and_eq_and_of_submask hv (by decide)
  have hie : crTakeIe y.cr (crDisable y.cr) = y.cr := crTakeIe_eq_left (and_eq_and_of_submask hv (by decide))
  cases ha : y.active
  · have hen : crEn y.cr = false := (active_eq_false_iff.1 ha).1
    rw [writeCr_configure ha hrsv (crEn_crDisable _), crDisable_eq_self hen, hen]
    rfl
  · have hen := h.crEn_of_active ha
    rw [writeStreamReg_cr_active p _ ha]
    cases hdis : y.disabling
    · rw [writeCrActive_disables p hrsv hprot (crEn_crDisable _) hdis, hie, if_pos hen]
    · have hmode : p.disableMode = .drain := (h.drain hdis).2
      rw [writeCrActive_keeps p hrsv hprot (.inr hdis), hie, if_pos hen, disable_eq, hmode, ← hdis]
      rfl

/-! ## Interrupt-enable requests -/

/-- `wCR` with its mask as its value sets the mask's bits (43_single_transfer.md). -/
theorem setBits_eq_or (a m : Word) : (a &&& ~~~m) ||| m = a ||| m := by
  grind

/-- An event's bit is an interrupt enable: setting it leaves every other field (R107). -/
theorem or_eventBit_outside_ieMask (cr : Word) (e : TransferEvent) :
    (cr ||| eventBit e) &&& ~~~ieMask = cr &&& ~~~ieMask := by
  have hbit : eventBit e &&& ~~~ieMask = 0 := by
    cases e <;> decide
  rw [BitVec.and_or_distrib_right, hbit]
  exact BitVec.or_zero

/-- Clearing it leaves every other field as well (R108). -/
theorem and_not_eventBit_outside_ieMask (cr : Word) (e : TransferEvent) :
    (cr &&& ~~~eventBit e) &&& ~~~ieMask = cr &&& ~~~ieMask := by
  have hbit : ~~~eventBit e &&& ~~~ieMask = ~~~ieMask := by
    cases e <;> decide
  rw [BitVec.and_assoc, hbit]

/-- A request that reads SxCR and writes it back with other interrupt enables, its two host steps uninterrupted. -/
theorem hostTurns_interruptEnables {s : State} {c : Ctrl} {x : StreamIx} {mask val v : Word}
    (hinv : (s.stream c x).Inv s.params) (hv : ((s.stream c x).crRead &&& ~~~mask) ||| val = v)
    (hie : v &&& ~~~ieMask = (s.stream c x).cr &&& ~~~ieMask) :
    (s.beginRequest c x .readCr [.writeCr mask val] .done).hostTurns 1 =
      some { s.setStream c x { s.stream c x with cr := v } with
        trace := s.trace ++ [accessOf false c (.stream x .cr) (s.stream c x).crRead,
          accessOf true c (.stream x .cr) v]
        ret := .done } := by
  have hturn := turn_writeCr (c := c) (x := x) (ops := []) (r := .done) (rest := s.stack)
    (tr := s.trace ++ [accessOf false c (.stream x .cr) (s.stream c x).crRead]) hv (hinv.writeCr_interruptEnables hie)
  rw [beginRequest_readCr, hostTurns_one]
  refine hturn.trans ?_
  rw [List.append_assoc]
  rfl

/-- Settles O26: setting or clearing HTIE or TCIE differs from SxCR in interrupt enables alone. -/
theorem listenSetsAndUnlistenClears : Obligations.ListenSetsAndUnlistenClears := by
  rintro s c x e _ bit rfl hidle hinv hbit
  obtain rfl : bit = eventBit e := hbit.trans (by cases e <;> rfl)
  have hread := hinv.crRead_eq_cr
  refine ⟨⟨_, needIdle_idle hidle, ?_⟩, ⟨_, needIdle_idle hidle, ?_⟩⟩
  · refine (hostTurns_interruptEnables hinv (setBits_eq_or _ _) ?_).trans ?_
    · rw [hread, or_eventBit_outside_ieMask]
    · rw [hread]
  · refine (hostTurns_interruptEnables hinv BitVec.or_zero ?_).trans ?_
    · rw [hread, and_not_eventBit_outside_ieMask]
    · rw [hread]

/-! ## RESET_SEQ on a stream in the invariant -/

/-- What RESET_SEQ leaves is the disable of an enabled stream, with TCIF and TEIF cleared (R85, R111). -/
theorem stopped_eq (p : Params) (y : Stream) :
    y.stopped p = { (if crEn y.cr then disable p y else y) with tcif := false, teif := false } := by
  rw [Stream.stopped]
  cases hen : crEn y.cr
  · have hcr : y.cr &&& ~~~(0x1 : Word) = y.cr := crDisable_eq_self hen
    rw [if_neg fun h => Bool.false_ne_true h.1, hcr]
    rfl
  · cases hmode : p.disableMode
    · simp [disable_eq, hmode, crDisable, enBit]
    · simp [disable_eq, hmode]

/-- The two writes of RESET_SEQ after its read, uninterrupted: the stream is stopped, and the request goes on with the
host steps left (R111). -/
theorem hostTurns_resetSeq {s : State} {c : Ctrl} {x : StreamIx} {y : Stream} {ops : List HostOp} {r : Return}
    {rest : List Frame} {tr : List BusAccess} (hinv : y.Inv s.params) :
    (s.inRequest c x y
        ({ c := c, s := x, t := y.crRead, ops := .writeCr enBit 0 :: .clearFlags :: ops, result := r } :: rest)
        tr).hostTurns 2 =
      some (s.afterStep c x (y.stopped s.params) { c := c, s := x, t := y.crRead, ops := ops, result := r } rest
        (tr ++ [accessOf true c (.stream x .cr) (y.cr &&& ~~~(0x1 : Word)),
          accessOf true c (.ifcr (groupOf x)) (tcBit x ||| teBit x)])) := by
  have hv : (y.crRead &&& ~~~enBit) ||| 0 = crDisable y.cr := by
    rw [hinv.crRead_eq_cr]
    exact BitVec.or_zero
  rw [hostTurns_succ 1 (turn_writeCr hv hinv.writeCr_crDisable), hostTurns_one]
  refine turn_clearFlags.trans ?_
  rw [stopped_eq, List.append_assoc]
  rfl

/-- Settles O28: the request is RESET_SEQ and nothing more. -/
theorem streamResetStopsAndClears : Obligations.StreamResetStopsAndClears := by
  rintro s c x _ rfl hidle hinv
  refine ⟨_, needIdle_idle hidle, ?_⟩
  rw [beginRequest_readCr]
  refine (hostTurns_resetSeq hinv).trans ?_
  rw [List.append_assoc]
  rfl

end Sys2Proof.Machine

namespace Sys2Proof.Machine

/-! ## Single transfer: preconditions and queries -/

theorem needSingle_single {c : Ctrl} {x : StreamIx} {s : State} {r : SingleRec} {k : SingleRec → State}
    (h : (s.stream c x).fsm = .single r) : needSingle c x s k = .next (k r) := by
  rw [needSingle, h]

theorem afterErrorOr_seen {s k : State} {r : SingleRec} (h : r.errSeen = true) :
    afterErrorOr s r k = s.refusedBy .afterError :=
  if_pos h

theorem afterErrorOr_unseen {s k : State} {r : SingleRec} (h : r.errSeen = false) : afterErrorOr s r k = k :=
  if_neg (Bool.eq_false_iff.1 h)

theorem widthOk_iff (w : Nat) : widthOk w = true ↔ w ∈ [1, 2, 4] := by
  simp [widthOk, or_assoc]

theorem lenOk_iff (n : Nat) : lenOk n = true ↔ 1 ≤ n ∧ n ≤ 65535 := by
  rw [lenOk, Bool.and_eq_true, decide_eq_true_eq, decide_eq_true_eq]
  rfl

/-- SB_START on an idle stream returns the error of its preconditions and does nothing else (R115). -/
theorem exec_sbStart_refused {s : State} {c : Ctrl} {x : StreamIx} {chan : Nat} {circ : Bool} {src : Buf}
    {tgt : Target} {e : CfgError} (hchan : chan < 8) (hidle : (s.stream c x).fsm = .idle)
    (h : sbCheck s.params c x chan src tgt = some e) :
    exec (.sbStart c x chan circ src tgt) s = .next { s with ret := .cfgError e } := by
  refine (needChan_ok hchan).trans ((needIdle_idle hidle).trans ?_)
  rw [h]
  rfl

/-- Settles O29: the error returned is the first of `sbCheck`'s conditions that fails. -/
theorem singleStartPreconditions : Obligations.SingleStartPreconditions := by
  intro s c x chan circ src tgt hchan hidle
  refine ⟨fun hsrc => ?_, fun hsrc htgt => ?_, fun hsrc htgt hlen => ?_, fun hsrc htgt hpos hle hpair => ?_⟩
  all_goals refine exec_sbStart_refused hchan hidle ?_
  · rw [← widthOk_iff, Bool.not_eq_true] at hsrc
    simp [sbCheck, hsrc]
  · rw [← widthOk_iff] at hsrc
    rw [← widthOk_iff, Bool.not_eq_true] at htgt
    simp [sbCheck, hsrc, htgt]
  · rw [← widthOk_iff] at hsrc htgt
    have hbad : lenOk src.len = false := Bool.eq_false_iff.2 fun h => by
      have := (lenOk_iff _).1 h
      omega
    simp [sbCheck, hsrc, htgt, hbad]
  · rw [← widthOk_iff] at hsrc htgt
    simp [sbCheck, hsrc, htgt, (lenOk_iff _).2 ⟨hpos, hle⟩, hpair]

/-- Setting a controller FSM to what it is changes nothing. -/
theorem setFsm_of_fsm_eq {s : State} {c : Ctrl} {x : StreamIx} {f : Fsm} (h : (s.stream c x).fsm = f) :
    s.setFsm c x f = s := by
  subst h
  exact setStream_self s c x

/-- SB_HAS_ERROR with no error seen: one query, and the answer kept in the record (R119). -/
theorem exec_sbHasError {s : State} {c : Ctrl} {x : StreamIx} {r : SingleRec} (hfsm : (s.stream c x).fsm = .single r)
    (hseen : r.errSeen = false) :
    exec (.sbHasError c x) s =
      .next ((s.query c x (teBit x)).setFsm c x (.single { r with errSeen := (s.stream c x).teif })) := by
  refine (needSingle_single hfsm).trans ?_
  rw [afterErrorOr_unseen hseen, hasBits_isrRead_te]
  cases (s.stream c x).teif
  · have hrec : { r with errSeen := false } = r := by rw [← hseen]
    rw [hrec, setFsm_of_fsm_eq (s := s.query c x (teBit x)) hfsm]
    rfl
  · rfl

/-- Settles O31: the query's one read shows the flag its mask asks for. -/
theorem singleQueriesAnswerFlags : Obligations.SingleQueriesAnswerFlags := by
  intro s c x r hfsm hseen
  refine ⟨(needSingle_single hfsm).trans ?_, (exec_sbHasError hfsm hseen).trans ?_⟩
  · rw [afterErrorOr_unseen hseen, State.query, hasBits_isrRead_tc]
    rfl
  · rw [State.query, hasBits_isrRead_te]
    rfl

/-- Settles O32: the three requests ask for `err_seen` before their first host step. -/
theorem afterErrorOnlyReset : Obligations.AfterErrorOnlyReset := by
  intro s c x r hfsm hseen i hi
  simp only [List.mem_cons, List.not_mem_nil, or_false] at hi
  rcases hi with rfl | rfl | rfl <;> exact (needSingle_single hfsm).trans (congrArg _ (afterErrorOr_seen hseen))

/-! ## Release -/

section Release

variable {s : State} {c : Ctrl} {x : StreamIx} {y : Stream} {t : Word} {r : Return} {rest : List Frame}
  {tr : List BusAccess}

/-- A release whose SxCR read is done, its three host steps left run uninterrupted: RESET_SEQ's two writes and IDLE
(R111, R121). -/
theorem hostTurns_release_afterRead (hinv : y.Inv s.params) :
    (s.inRequest c x y
        ({ c := c, s := x, t := y.crRead, ops := [.writeCr enBit 0, .clearFlags, .release], result := r } :: rest)
        tr).hostTurns 3 =
      some (s.returned c x { y.stopped s.params with fsm := .idle } rest
        (tr ++ [accessOf true c (.stream x .cr) (y.cr &&& ~~~(0x1 : Word)),
          accessOf true c (.ifcr (groupOf x)) (tcBit x ||| teBit x)]) r) := by
  rw [hostTurns_add _ 2 1, hostTurns_resetSeq hinv, Option.bind_some, hostTurns_one]
  exact turn_release

/-- A release, its four host steps run uninterrupted (R111, R121). -/
theorem hostTurns_releaseSeq (hinv : y.Inv s.params) :
    (s.inRequest c x y ({ c := c, s := x, t := t, ops := releaseSeq, result := r } :: rest) tr).hostTurns 4 =
      some (s.returned c x { y.stopped s.params with fsm := .idle } rest
        (tr ++ [accessOf false c (.stream x .cr) y.crRead, accessOf true c (.stream x .cr) (y.cr &&& ~~~(0x1 : Word)),
          accessOf true c (.ifcr (groupOf x)) (tcBit x ||| teBit x)]) r) := by
  refine (hostTurns_succ 3 turn_readCr).trans ((hostTurns_release_afterRead hinv).trans ?_)
  rw [List.append_assoc]
  rfl

end Release

/-- Settles O35: SB_RESET looks at neither `err_seen` nor the phase, and is a release. -/
theorem singleResetReleases : Obligations.SingleResetReleases := by
  rintro s c x r _ rfl hfsm hinv
  refine ⟨_, needSingle_single hfsm, ?_⟩
  rw [beginRequest_readCr]
  refine (hostTurns_release_afterRead hinv).trans ?_
  rw [List.append_assoc]
  rfl

/-! ## SB_WAIT (R120) -/

/-- SB_WAIT in progress: the host steps left, and what it returns when none is left. -/
def waitFrame (c : Ctrl) (x : StreamIx) (ops : List HostOp) (r : Return) : Frame :=
  { c := c, s := x, t := 0, ops := ops, result := r }

section Wait

variable {s : State} {c : Ctrl} {x : StreamIx} {fs rest : List Frame} {tr : List BusAccess}

/-- A machine that is inside a request and has moved no stream shows the flags it showed before. -/
theorem isrRead_inRequest_self : (s.inRequest c x (s.stream c x) fs tr).isrRead c x = s.isrRead c x := by
  rw [State.inRequest, setStream_self]
  rfl

/-- Step a of SB_WAIT's loop: on to the release if TCIF is set, else to step b. -/
theorem runOp_waitTc :
    (s.inRequest c x (s.stream c x) fs tr).runOp .waitTc (waitFrame c x [] .none) rest =
      s.inRequest c x (s.stream c x)
        ((if (s.stream c x).tcif then waitFrame c x releaseSeq .success else waitFrame c x [.waitTe] .none) :: rest)
        (tr ++ [s.isrAccess c x]) := by
  simp only [State.runOp, waitFrame, isrRead_inRequest_self, hasBits_isrRead_tc]
  cases (s.stream c x).tcif <;> rfl

/-- Step b of SB_WAIT's loop: on to the release if TEIF is set, else back to step a. -/
theorem runOp_waitTe :
    (s.inRequest c x (s.stream c x) fs tr).runOp .waitTe (waitFrame c x [] .none) rest =
      s.inRequest c x (s.stream c x)
        ((if (s.stream c x).teif then waitFrame c x releaseSeq .failure else waitFrame c x [.waitTc] .none) :: rest)
        (tr ++ [s.isrAccess c x]) := by
  simp only [State.runOp, waitFrame, isrRead_inRequest_self, hasBits_isrRead_te]
  cases (s.stream c x).teif <;> rfl

/-- SB_WAIT with no error seen runs step a at once. -/
theorem exec_sbWait {r : SingleRec} (hfsm : (s.stream c x).fsm = .single r) (hseen : r.errSeen = false) :
    exec (.sbWait c x) s =
      .next (s.inRequest c x (s.stream c x)
        ((if (s.stream c x).tcif then waitFrame c x releaseSeq .success else waitFrame c x [.waitTe] .none) :: s.stack)
        (s.trace ++ [s.isrAccess c x])) := by
  refine (needSingle_single hfsm).trans (congrArg _ ?_)
  rw [afterErrorOr_unseen hseen, ← runOp_waitTc (fs := s.stack), inRequest_self]
  rfl

/-- A turn at step a of SB_WAIT's loop. -/
theorem turn_waitTc :
    (s.inRequest c x (s.stream c x) (waitFrame c x [.waitTc] .none :: rest) tr).hostTurn =
      some (s.inRequest c x (s.stream c x)
        ((if (s.stream c x).tcif then waitFrame c x releaseSeq .success else waitFrame c x [.waitTe] .none) :: rest)
        (tr ++ [s.isrAccess c x])) :=
  (hostTurn_cons rfl (by simp)).trans (congrArg some runOp_waitTc)

/-- A turn at step b of SB_WAIT's loop. -/
theorem turn_waitTe :
    (s.inRequest c x (s.stream c x) (waitFrame c x [.waitTe] .none :: rest) tr).hostTurn =
      some (s.inRequest c x (s.stream c x)
        ((if (s.stream c x).teif then waitFrame c x releaseSeq .failure else waitFrame c x [.waitTc] .none) :: rest)
        (tr ++ [s.isrAccess c x])) :=
  (hostTurn_cons rfl (by simp)).trans (congrArg some runOp_waitTe)

/-- With no flag set, `n` rounds of SB_WAIT's loop read the status register `2n` times and end where they began. -/
theorem hostTurns_waitLoop (htc : (s.stream c x).tcif = false) (hte : (s.stream c x).teif = false) (n : Nat) :
    (s.inRequest c x (s.stream c x) (waitFrame c x [.waitTc] .none :: rest) tr).hostTurns (2 * n) =
      some (s.inRequest c x (s.stream c x) (waitFrame c x [.waitTc] .none :: rest)
        (tr ++ List.replicate (2 * n) (s.isrAccess c x))) := by
  induction n generalizing tr with
  | zero => simp [State.hostTurns]
  | succ n ih =>
    rw [Nat.mul_succ, hostTurns_succ (2 * n + 1) turn_waitTc, htc, if_neg Bool.false_ne_true,
      hostTurns_succ (2 * n) turn_waitTe, hte, if_neg Bool.false_ne_true, ih]
    simp [List.replicate_succ]

end Wait

/-- Settles O33: TCIF is looked at first, and either flag's exit is a release. -/
theorem singleWaitReturns : Obligations.SingleWaitReturns := by
  rintro s c x r _ rfl hfsm hseen hinv
  refine ⟨fun htc => ⟨_, exec_sbWait hfsm hseen, ?_⟩, fun htc hte => ⟨_, exec_sbWait hfsm hseen, ?_⟩⟩
  · rw [htc]
    exact hostTurns_releaseSeq hinv
  · rw [htc, if_neg Bool.false_ne_true, hostTurns_succ 4 turn_waitTe, hte]
    refine (hostTurns_releaseSeq hinv).trans ?_
    rw [List.append_assoc _ [_] [_]]
    rfl

/-- Settles O34: the request's first read leaves it at step b, and each round of the loop leads back to step a. -/
theorem singleWaitLoopsWithoutFlags : Obligations.SingleWaitLoopsWithoutFlags := by
  intro s c x r hfsm hseen htc hte
  refine ⟨_, exec_sbWait hfsm hseen, fun n => ?_⟩
  rw [htc, if_neg Bool.false_ne_true, hostTurns_succ (2 * n) turn_waitTe, hte, if_neg Bool.false_ne_true,
    hostTurns_waitLoop htc hte]
  simp [State.inRequest, waitFrame, List.replicate_succ]

end Sys2Proof.Machine

namespace Sys2Proof.Machine

/-! ## Fields of SxCR

`wCR(mask, val)` replaces a field of SxCR; a start request replaces one field after the other (R116, R123). -/

/-- A word with the field under `mask` replaced (43_single_transfer.md, `wCR`). -/
def withField (cr mask val : Word) : Word := (cr &&& ~~~mask) ||| val

/-- Two fields replaced, the second apart from the first, are one field replaced. -/
theorem withField_withField {v m' : Word} (cr m v' : Word) (h : v &&& m' = 0) :
    withField (withField cr m v) m' v' = withField cr (m ||| m') (v ||| v') := by
  rw [withField, withField, BitVec.and_or_distrib_right, and_not_eq_self h, BitVec.and_assoc, ← BitVec.not_or,
    BitVec.or_assoc]
  rfl

/-- Inside the field the new value is read. -/
theorem withField_and_inside {m k : Word} (cr v : Word) (h : ~~~m &&& k = 0) : withField cr m v &&& k = v &&& k := by
  rw [withField, BitVec.and_or_distrib_right, BitVec.and_assoc, h]
  simp

/-- Outside the field the old word is read. -/
theorem withField_and_outside {m v k : Word} (cr : Word) (h : ~~~m &&& k = k) (hv : v &&& k = 0) :
    withField cr m v &&& k = cr &&& k := by
  rw [withField, BitVec.and_or_distrib_right, BitVec.and_assoc, h, hv]
  exact BitVec.or_zero

/-- A field value without EN keeps EN clear. -/
theorem crEn_withField {cr v : Word} (m : Word) (hcr : crEn cr = false) (hv : crEn v = false) :
    crEn (withField cr m v) = false := by
  rw [crEn] at hcr hv ⊢
  rw [withField, BitVec.getLsbD_or, BitVec.getLsbD_and, hcr, hv]
  rfl

/-- A field value without reserved bits keeps them 0. -/
theorem reserved_withField {cr v : Word} (m : Word) (hcr : cr &&& rsvCr = 0) (hv : v &&& rsvCr = 0) :
    withField cr m v &&& rsvCr = 0 := by
  rw [withField, BitVec.and_or_distrib_right, hv, BitVec.and_assoc, BitVec.and_comm (~~~m), ← BitVec.and_assoc, hcr]
  simp

/-- The fields outside scope are 0 exactly when PFCTRL, PINCOS, PBURST and MBURST are (R63, R83). -/
theorem outOfScope_eq_zero_iff (v : Word) :
    v &&& 0x01E08020 = 0 ↔
      v.getLsbD 5 = false ∧ v.getLsbD 15 = false ∧ v.extractLsb' 21 2 = 0 ∧ v.extractLsb' 23 2 = 0 := by
  constructor
  · intro h
    have hfield (i : Nat) := congrArg (BitVec.extractLsb' i 2) h
    have hbit (i : Nat) (hi : (0x01E08020 : Word).getLsbD i = true) := getLsbD_of_and_eq_zero h hi
    refine ⟨hbit 5 (by decide), hbit 15 (by decide), ?_, ?_⟩
    · simpa [BitVec.extractLsb'_and, and_three] using hfield 21
    · simpa [BitVec.extractLsb'_and, and_three] using hfield 23
  · rintro ⟨h5, h15, h21, h23⟩
    have hlow {i : Nat} (h : v.extractLsb' i 2 = 0) (j : Nat) (hj : j < 2) : v.getLsbD (i + j) = false := by
      simpa [hj] using congrArg (fun w : BitVec 2 => w.getLsbD j) h
    have hmask : ∀ i, i < 32 → (0x01E08020 : Word).getLsbD i = true → i ∈ [5, 15, 21, 22, 23, 24] := by decide
    refine and_eq_zero_of_bits fun i hi => ?_
    have := hmask i (BitVec.lt_of_getLsbD hi) hi
    simp only [List.mem_cons, List.not_mem_nil, or_false] at this
    rcases this with rfl | rfl | rfl | rfl | rfl | rfl
    · exact h5
    · exact h15
    · exact hlow h21 0 (by decide)
    · exact hlow h21 1 (by decide)
    · exact hlow h23 0 (by decide)
    · exact hlow h23 1 (by decide)

/-- F9's condition in two parts: the fields outside scope, and the fields that a start request sets (R83). -/
theorem cfgUnmodelled_iff_parts (v : Word) :
    cfgUnmodelled v = true ↔ v &&& 0x01E08020 ≠ 0 ∨ cfgUnmodelled (v &&& 0x000C7FC0) = true := by
  have hfield (i : Nat) (h : (0x000C7FC0 : Word).extractLsb' i 2 = 3) :
      (v &&& 0x000C7FC0).extractLsb' i 2 = v.extractLsb' i 2 := by
    rw [BitVec.extractLsb'_and, h]
    exact and_three _
  have hbit (i : Nat) (h : (0x000C7FC0 : Word).getLsbD i = true) : (v &&& 0x000C7FC0).getLsbD i = v.getLsbD i := by
    rw [BitVec.getLsbD_and, h, Bool.and_true]
  obtain ⟨h5, h15, h21, h23⟩ := (outOfScope_eq_zero_iff (v &&& 0x000C7FC0)).1 (by
    rw [BitVec.and_assoc]
    exact BitVec.and_zero)
  simp only [cfgUnmodelled_iff, ne_eq, outOfScope_eq_zero_iff, hfield 6 rfl, hfield 11 rfl, hfield 13 rfl,
    hbit 8 rfl, hbit 18 rfl, h5, h15, h21, h23]
  grind

/-! ## The writes before the enable

Every start request is a list of register writes on a stream that stays inactive, and then the enable (R116, R123). -/

/-- A stream that a start request may configure: not active, its reserved bits 0. -/
structure Stream.Configurable (y : Stream) : Prop where
  inactive : y.active = false
  reserved : y.cr &&& rsvCr = 0

/-- A disabled stream in the invariant has no disable pending either (R29). -/
theorem Stream.Inv.configurable {p : Params} {y : Stream} (h : y.Inv p) (hen : crEn y.cr = false) : y.Configurable where
  inactive := Bool.eq_false_iff.2 fun ha => Bool.false_ne_true (hen.symm.trans (h.crEn_of_active ha))
  reserved := h.reserved

theorem Stream.Configurable.crEn {y : Stream} (h : y.Configurable) : crEn y.cr = false :=
  (active_eq_false_iff.1 h.inactive).1

theorem Stream.Configurable.disabling {y : Stream} (h : y.Configurable) : y.disabling = false :=
  (active_eq_false_iff.1 h.inactive).2

theorem Stream.Configurable.crRead_eq_cr {y : Stream} (h : y.Configurable) : y.crRead = y.cr :=
  crRead_inactive h.inactive h.reserved

/-- One register write of a start request before its enable. -/
inductive ConfigWrite where
  /-- A field of SxCR. -/
  | field (mask val : Word)
  /-- SxM0AR (`k` false) or SxM1AR (`k` true). -/
  | buffer (k : Bool) (a : Word)
  /-- SxNDTR. -/
  | count (n : Nat)
  /-- SxPAR. -/
  | target (a : Word)

namespace ConfigWrite

/-- The host steps of the write. -/
def steps : ConfigWrite → List HostOp
  | .field mask val => wCr mask val
  | .buffer k a => [.writeReg (marOf k) a]
  | .count n => [.writeReg .ndtr (BitVec.ofNat 32 n)]
  | .target a => [.writeReg .par a]

/-- What it leaves of the stream. -/
def apply : ConfigWrite → Stream → Stream
  | .field mask val, y => { y with cr := withField y.cr mask val }
  | .buffer k a, y => if k then { y with m1ar := a } else { y with m0ar := a }
  | .count n, y => { y with ndtr := BitVec.ofNat 16 n }
  | .target a, y => { y with par := a }

/-- Its bus accesses. -/
def accesses (c : Ctrl) (x : StreamIx) : ConfigWrite → Stream → List BusAccess
  | .field mask val, y =>
    [accessOf false c (.stream x .cr) y.cr, accessOf true c (.stream x .cr) (withField y.cr mask val)]
  | .buffer k a, _ => [accessOf true c (.stream x (marOf k)) a]
  | .count n, _ => [accessOf true c (.stream x .ndtr) (BitVec.ofNat 32 n)]
  | .target a, _ => [accessOf true c (.stream x .par) a]

/-- It enables nothing and sets no reserved bit. -/
def Ok : ConfigWrite → Prop
  | .field _ val => crEn val = false ∧ val &&& rsvCr = 0
  | .buffer _ _ => True
  | .count n => n ≤ 65535
  | .target _ => True

theorem apply_configurable {w : ConfigWrite} {y : Stream} (hw : w.Ok) (h : y.Configurable) :
    (w.apply y).Configurable := by
  cases w with
  | field mask val =>
    obtain ⟨hen, hrsv⟩ := hw
    have hen := crEn_withField mask h.crEn hen
    exact ⟨active_eq_false_iff.2 ⟨hen, h.disabling⟩, reserved_withField mask h.reserved hrsv⟩
  | buffer k a => cases k <;> exact ⟨h.inactive, h.reserved⟩
  | count n => exact ⟨h.inactive, h.reserved⟩
  | target a => exact ⟨h.inactive, h.reserved⟩

/-- Its writes of SxCR leave EN clear. -/
theorem accesses_crEn {w : ConfigWrite} {y : Stream} {c : Ctrl} {x : StreamIx} (hw : w.Ok) (h : y.Configurable) :
    ∀ a ∈ w.accesses c x y, a.aw = awWord true c (.stream x .cr) → Machine.crEn a.data = false := by
  cases w with
  | field mask val => simpa [accesses, accessOf, awWord_inj] using crEn_withField mask h.crEn hw.1
  | buffer k a => cases k <;> simp [accesses, accessOf, awWord_inj, marOf]
  | count n => simp [accesses, accessOf, awWord_inj]
  | target a => simp [accesses, accessOf, awWord_inj]

end ConfigWrite

/-- A request with host steps left stays in progress. -/
theorem afterStep_more (s : State) (c : Ctrl) (x : StreamIx) (y : Stream) {f : Frame} (rest : List Frame)
    (tr : List BusAccess) (h : f.ops ≠ []) : s.afterStep c x y f rest tr = s.inRequest c x y (f :: rest) tr := by
  unfold State.afterStep
  split
  · next e => exact absurd e h
  · rfl

/-! An inactive stream's count, target and buffer registers are writable (R87, R89, R91). -/

theorem writeStreamReg_count {y : Stream} (p : Params) (h : y.active = false) {n : Nat} (hn : n ≤ 65535) :
    writeStreamReg p .ndtr (BitVec.ofNat 32 n) y = ({ y with ndtr := BitVec.ofNat 16 n }, none) := by
  have hfits : (BitVec.ofNat 32 n).toNat < 65536 := by
    rw [BitVec.toNat_ofNat]
    omega
  refine (writeNdtr_of_fits hfits y).trans ?_
  rw [h, BitVec.setWidth_ofNat_of_le (by decide)]
  rfl

theorem writeStreamReg_target {y : Stream} (p : Params) (h : y.active = false) (a : Word) :
    writeStreamReg p .par a y = ({ y with par := a }, none) :=
  if_neg (Bool.eq_false_iff.1 h)

theorem writeStreamReg_buffer {y : Stream} (p : Params) (h : y.active = false) (k : Bool) (a : Word) :
    writeStreamReg p (marOf k) a y = (if k then { y with m1ar := a } else { y with m0ar := a }, none) := by
  have hw (j : Bool) : addrWritable j y = true := by rw [addrWritable, h]; rfl
  cases k <;> exact writeMar_taken a (hw _)

section Configure

variable {s : State} {c : Ctrl} {x : StreamIx} {t : Word} {ops : List HostOp} {r : Return} {rest : List Frame}

/-- The host steps of one write, uninterrupted. -/
theorem hostTurns_configWrite {w : ConfigWrite} {y : Stream} {tr : List BusAccess} (hw : w.Ok) (h : y.Configurable)
    (hops : ops ≠ []) :
    ∃ t', (s.inRequest c x y ({ c := c, s := x, t := t, ops := w.steps ++ ops, result := r } :: rest) tr).hostTurns
        w.steps.length =
      some (s.inRequest c x (w.apply y) ({ c := c, s := x, t := t', ops := ops, result := r } :: rest)
        (tr ++ w.accesses c x y)) := by
  cases w with
  | field mask val =>
    have hcfg := ConfigWrite.apply_configurable hw h
    have hval : (y.crRead &&& ~~~mask) ||| val = withField y.cr mask val := by rw [h.crRead_eq_cr]; rfl
    have hwrite := writeCr_configure (p := s.params) h.inactive hcfg.reserved hcfg.crEn
    refine ⟨y.crRead, (hostTurns_succ 1 turn_readCr).trans
      ((hostTurns_one _).trans ((turn_writeCr hval hwrite).trans ?_))⟩
    rw [afterStep_more _ _ _ _ _ _ hops, List.append_assoc, h.crRead_eq_cr]
    rfl
  | buffer k a =>
    refine ⟨t, (hostTurns_one _).trans ((turn_writeReg (writeStreamReg_buffer _ h.inactive k a)).trans ?_)⟩
    rw [afterStep_more _ _ _ _ _ _ hops]
    rfl
  | count n =>
    refine ⟨t, (hostTurns_one _).trans ((turn_writeReg (writeStreamReg_count _ h.inactive hw)).trans ?_)⟩
    rw [afterStep_more _ _ _ _ _ _ hops]
    rfl
  | target a =>
    refine ⟨t, (hostTurns_one _).trans ((turn_writeReg (writeStreamReg_target _ h.inactive a)).trans ?_)⟩
    rw [afterStep_more _ _ _ _ _ _ hops]
    rfl

/-- The host steps of a list of writes. -/
def configSteps (ws : List ConfigWrite) : List HostOp := ws.flatMap ConfigWrite.steps

/-- What a list of writes leaves of the stream. -/
def configure : List ConfigWrite → Stream → Stream
  | [], y => y
  | w :: ws, y => configure ws (w.apply y)

/-- The bus accesses of a list of writes. -/
def configAccesses (c : Ctrl) (x : StreamIx) : List ConfigWrite → Stream → List BusAccess
  | [], _ => []
  | w :: ws, y => w.accesses c x y ++ configAccesses c x ws (w.apply y)

theorem configure_configurable {ws : List ConfigWrite} (hws : ∀ w ∈ ws, w.Ok) :
    ∀ {y : Stream}, y.Configurable → (configure ws y).Configurable := by
  induction ws with
  | nil => exact fun h => h
  | cons w ws ih =>
    obtain ⟨hw, hws⟩ := List.forall_mem_cons.1 hws
    exact fun h => ih hws (ConfigWrite.apply_configurable hw h)

/-- No write before the enable sets EN (R117). -/
theorem configAccesses_crEn {ws : List ConfigWrite} (hws : ∀ w ∈ ws, w.Ok) :
    ∀ {y : Stream}, y.Configurable →
      ∀ a ∈ configAccesses c x ws y, a.aw = awWord true c (.stream x .cr) → crEn a.data = false := by
  induction ws with
  | nil => exact fun _ a ha => absurd ha List.not_mem_nil
  | cons w ws ih =>
    obtain ⟨hw, hws⟩ := List.forall_mem_cons.1 hws
    intro y h a ha
    rcases List.mem_append.1 ha with ha | ha
    · exact ConfigWrite.accesses_crEn hw h a ha
    · exact ih hws (ConfigWrite.apply_configurable hw h) a ha

/-- The host steps of a list of writes, uninterrupted. -/
theorem hostTurns_configure {ws : List ConfigWrite} (hops : ops ≠ []) (hws : ∀ w ∈ ws, w.Ok) :
    ∀ {y : Stream} {t : Word} {tr : List BusAccess}, y.Configurable →
      ∃ t', (s.inRequest c x y ({ c := c, s := x, t := t, ops := configSteps ws ++ ops, result := r } :: rest)
          tr).hostTurns (configSteps ws).length =
        some (s.inRequest c x (configure ws y) ({ c := c, s := x, t := t', ops := ops, result := r } :: rest)
          (tr ++ configAccesses c x ws y)) := by
  induction ws with
  | nil => exact fun {y t tr} _ => ⟨t, by rw [configAccesses, List.append_nil]; rfl⟩
  | cons w ws ih =>
    obtain ⟨hw, hws⟩ := List.forall_mem_cons.1 hws
    intro y t tr h
    obtain ⟨t₁, h₁⟩ := hostTurns_configWrite (s := s) (c := c) (x := x) (t := t) (ops := configSteps ws ++ ops)
      (r := r) (rest := rest) (tr := tr) hw h (List.append_ne_nil_of_right_ne_nil _ hops)
    obtain ⟨t₂, h₂⟩ := ih hws (t := t₁) (tr := tr ++ w.accesses c x y) (ConfigWrite.apply_configurable hw h)
    refine ⟨t₂, ?_⟩
    have hcons : configSteps (w :: ws) = w.steps ++ configSteps ws := List.flatMap_cons
    rw [hcons, List.length_append, hostTurns_add, List.append_assoc, h₁, Option.bind_some, h₂, List.append_assoc]
    rfl

/-! ## The enable -/

/-- The accesses of a start request before its enable write: the writes, and the enable's read of SxCR (R116, R123). -/
def startAccesses (c : Ctrl) (x : StreamIx) (ws : List ConfigWrite) (y : Stream) : List BusAccess :=
  configAccesses c x ws y ++ [accessOf false c (.stream x .cr) (configure ws y).cr]

/-- The enable write is the first SxCR write to set EN (R117). -/
theorem startAccesses_crEn {ws : List ConfigWrite} (hws : ∀ w ∈ ws, w.Ok) {y : Stream} (h : y.Configurable) :
    ∀ a ∈ startAccesses c x ws y, a.aw = awWord true c (.stream x .cr) → a.data.getLsbD 0 = false := by
  intro a ha haw
  rcases List.mem_append.1 ha with ha | ha
  · exact configAccesses_crEn hws h a ha haw
  · rw [List.mem_singleton.1 ha] at haw
    exact absurd (awWord_inj.1 haw).1 Bool.false_ne_true

theorem crDisable_crEnable {cr : Word} (h : crEn cr = false) : crDisable (crEnable cr) = cr := by
  have hself : cr &&& ~~~enBit = cr := crDisable_eq_self h
  rw [crDisable, crEnable, BitVec.and_or_distrib_right, hself]
  exact BitVec.or_zero

/-- An enable write that the checks refuse leaves the stream as configured (R82, R83). -/
theorem Stream.Configurable.writeCr_enable_refused {p : Params} {y : Stream} {f : ModelFault} (h : y.Configurable)
    (hcheck : enChecks p y = some f) : writeStreamReg p .cr (crEnable y.cr) y = (y, some f) := by
  have hstored : crDisable (crEnable y.cr) = y.cr := crDisable_crEnable h.crEn
  rw [writeStreamReg_cr_inactive p _ h.inactive,
    writeCrInactive_refused (reserved_crEnable h.reserved) (crEn_crEnable _) (by rw [hstored]; exact hcheck), hstored]

/-- An enable write that passes the checks (R82). -/
theorem Stream.Configurable.writeCr_enable_taken {p : Params} {y : Stream} (h : y.Configurable)
    (hcheck : enChecks p y = none) : writeStreamReg p .cr (crEnable y.cr) y =
      ({ y with cr := crEnable y.cr, reload := y.ndtr, passes := 0, teCause := .none }, none) := by
  have hstored : crDisable (crEnable y.cr) = y.cr := crDisable_crEnable h.crEn
  rw [writeStreamReg_cr_inactive p _ h.inactive,
    writeCrInactive_enabled (reserved_crEnable h.reserved) (crEn_crEnable _) (by rw [hstored]; exact hcheck)]

/-- A start request up to its enable write, its host steps after the acquisition uninterrupted (R116, R123). -/
theorem hostTurns_start_toEnable {ws : List ConfigWrite} {y : Stream} {tr : List BusAccess} (hws : ∀ w ∈ ws, w.Ok)
    (h : y.Configurable) :
    (s.inRequest c x y ({ c := c, s := x, t := t, ops := configSteps ws ++ enableSeq, result := r } :: rest)
        tr).hostTurns ((configSteps ws).length + 1) =
      some (s.inRequest c x (configure ws y)
        ({ c := c, s := x, t := (configure ws y).cr, ops := [.writeCr enBit enBit, .markStarted], result := r } :: rest)
        (tr ++ startAccesses c x ws y)) := by
  obtain ⟨t', hconf⟩ := hostTurns_configure (s := s) (c := c) (x := x) (t := t) (ops := enableSeq) (r := r)
    (rest := rest) (tr := tr) (List.cons_ne_nil _ _) hws h
  rw [hostTurns_add, hconf, Option.bind_some]
  refine (hostTurns_one _).trans (turn_readCr.trans ?_)
  rw [(configure_configurable hws h).crRead_eq_cr, List.append_assoc]
  rfl

/-- If the enable passes the checks, the stream runs and its record is started (R116, R123). -/
theorem hostTurns_start_taken {ws : List ConfigWrite} {y : Stream} {tr : List BusAccess} (hws : ∀ w ∈ ws, w.Ok)
    (h : y.Configurable) (hcheck : enChecks s.params (configure ws y) = none) :
    (s.inRequest c x y ({ c := c, s := x, t := t, ops := configSteps ws ++ enableSeq, result := r } :: rest)
        tr).hostTurns ((configSteps ws).length + 3) =
      some (s.returned c x
        { configure ws y with
          cr := crEnable (configure ws y).cr
          reload := (configure ws y).ndtr
          passes := 0
          teCause := .none
          fsm := (configure ws y).fsm.start } rest
        (tr ++ startAccesses c x ws y ++ [accessOf true c (.stream x .cr) (crEnable (configure ws y).cr)]) r) := by
  have hwrite := (configure_configurable hws h).writeCr_enable_taken hcheck
  rw [hostTurns_add _ ((configSteps ws).length + 1) 2, hostTurns_start_toEnable hws h, Option.bind_some]
  exact (hostTurns_succ 1 (turn_writeCr (setBits_eq_or _ _) hwrite)).trans
    ((hostTurns_one _).trans turn_markStarted)

/-- If a check refuses the enable, the request ends there, the stream configured and disabled (R82; log 5). -/
theorem hostTurns_start_refused {ws : List ConfigWrite} {y : Stream} {tr : List BusAccess} {f : ModelFault}
    (hws : ∀ w ∈ ws, w.Ok) (h : y.Configurable) (hcheck : enChecks s.params (configure ws y) = some f) :
    (s.inRequest c x y ({ c := c, s := x, t := t, ops := configSteps ws ++ enableSeq, result := r } :: rest)
        tr).hostTurns ((configSteps ws).length + 2) =
      some { s.inRequest c x (configure ws y) rest
          (tr ++ startAccesses c x ws y ++ [accessOf true c (.stream x .cr) (crEnable (configure ws y).cr)]) with
        faults := insertFault f s.faults, ret := .faulted f } := by
  have hwrite := (configure_configurable hws h).writeCr_enable_refused hcheck
  rw [hostTurns_add _ ((configSteps ws).length + 1) 1, hostTurns_start_toEnable hws h, Option.bind_some]
  exact (hostTurns_one _).trans (turn_writeCr_fault (setBits_eq_or _ _) hwrite)

end Configure

/-! ## What a start request configures (R116, R123) -/

/-- The writes with which every start request begins: sizes, increment, direction, channel. -/
def commonWrites (mw pw chan : Nat) : List ConfigWrite :=
  [.field 0x00007800 (sizeFields mw pw), .field 0x00000600 0x00000400, .field 0x000000C0 0x00000040,
    .field 0x0E000000 (BitVec.ofNat 32 (chan * 0x2000000))]

/-- The fields of SxCR they set. -/
def commonFields (mw pw chan : Nat) : Word := sizeFields mw pw ||| 0x440 ||| BitVec.ofNat 32 (chan * 0x2000000)

/-- The writes of SB_START. -/
def singleWrites (chan : Nat) (circ : Bool) (src : Buf) (tgt : Target) : List ConfigWrite :=
  commonWrites src.width tgt.width chan ++
    [.field 0x000C0100 (if circ then 0x00000100 else 0), .buffer false src.addr, .count src.len, .target tgt.addr]

/-- The size fields are the codes of the two widths, MSIZE and PSIZE (R63, R64). -/
theorem sizeFields_eq {mw pw : Nat} (hm : mw ∈ [1, 2, 4]) (hp : pw ∈ [1, 2, 4]) :
    sizeFields mw pw = (if mw = 1 then 0 else if mw = 2 then 0x2000 else 0x4000) |||
      (if pw = 1 then 0 else if pw = 2 then 0x800 else 0x1000) := by
  revert pw
  revert mw
  decide

/-- With one width for both sides. -/
theorem sizeFields_self {w : Nat} (hw : w ∈ [1, 2, 4]) :
    sizeFields w w = if w = 1 then 0 else if w = 2 then 0x2800 else 0x5000 := by
  revert w
  decide

theorem sizeFields_inside {mw pw : Nat} (hm : mw ∈ [1, 2, 4]) (hp : pw ∈ [1, 2, 4]) :
    sizeFields mw pw &&& ~~~0x00007800 = 0 := by
  revert pw
  revert mw
  decide

theorem chanField_inside {chan : Nat} (h : chan < 8) : BitVec.ofNat 32 (chan * 0x2000000) &&& ~~~0x0E000000 = 0 := by
  revert chan
  decide

/-- A word with no bit of a mask has none of a part of it. -/
theorem and_eq_zero_of_submask {v k m : Word} (h : v &&& k = 0) (hm : k &&& m = m) : v &&& m = 0 := by
  rw [← hm, ← BitVec.and_assoc, h]
  exact BitVec.zero_and

/-- A value inside a field that is apart from EN and the reserved bits may be written. -/
theorem ConfigWrite.Ok.field {mask val : Word} (h : val &&& ~~~mask = 0) (hen : crEn mask = false)
    (hrsv : ~~~mask &&& rsvCr = rsvCr) : (ConfigWrite.field mask val).Ok :=
  ⟨getLsbD_of_and_eq_zero h (by simpa [crEn] using hen), and_eq_zero_of_submask h hrsv⟩

theorem commonWrites_ok {mw pw chan : Nat} (hm : mw ∈ [1, 2, 4]) (hp : pw ∈ [1, 2, 4]) (hchan : chan < 8) :
    ∀ w ∈ commonWrites mw pw chan, w.Ok := by
  simp only [commonWrites, List.forall_mem_cons]
  exact ⟨.field (sizeFields_inside hm hp) rfl rfl, .field rfl rfl rfl, .field rfl rfl rfl,
    .field (chanField_inside hchan) rfl rfl, List.forall_mem_nil _⟩

theorem singleWrites_ok {chan : Nat} (circ : Bool) {src : Buf} {tgt : Target} (hchan : chan < 8)
    (hsrc : src.width ∈ [1, 2, 4]) (htgt : tgt.width ∈ [1, 2, 4]) (hle : src.len ≤ 65535) :
    ∀ w ∈ singleWrites chan circ src tgt, w.Ok := by
  refine List.forall_mem_append.2 ⟨commonWrites_ok hsrc htgt hchan, ?_⟩
  simp only [List.forall_mem_cons]
  exact ⟨.field (by cases circ <;> rfl) rfl rfl, trivial, hle, trivial, List.forall_mem_nil _⟩

/-- The fields of the common writes are apart from each other, so together they replace one field. -/
theorem withField_commonFields {mw pw : Nat} (chan : Nat) (cr : Word) (hm : mw ∈ [1, 2, 4]) (hp : pw ∈ [1, 2, 4]) :
    withField (withField (withField (withField cr 0x00007800 (sizeFields mw pw)) 0x00000600 0x00000400) 0x000000C0
        0x00000040) 0x0E000000 (BitVec.ofNat 32 (chan * 0x2000000)) =
      withField cr 0x0E007EC0 (commonFields mw pw chan) := by
  have hsizes {k : Word} (hk : ~~~0x00007800 &&& k = k) : sizeFields mw pw &&& k = 0 :=
    and_eq_zero_of_submask (sizeFields_inside hm hp) hk
  have hfields : commonFields mw pw chan =
      (sizeFields mw pw ||| 0x400) ||| (0x40 ||| BitVec.ofNat 32 (chan * 0x2000000)) := by
    rw [← BitVec.or_assoc, BitVec.or_assoc (sizeFields mw pw)]
    rfl
  have hincrement : (sizeFields mw pw ||| 0x400) &&& (0xC0 ||| 0x0E000000) = 0 := by
    rw [BitVec.and_or_distrib_right, hsizes rfl]
    rfl
  rw [withField_withField _ _ _ (hsizes rfl), withField_withField (v := 0x40) _ _ _ rfl,
    withField_withField _ _ _ hincrement, hfields]
  rfl

theorem commonFields_apart {mw pw chan : Nat} (hm : mw ∈ [1, 2, 4]) (hp : pw ∈ [1, 2, 4]) (hchan : chan < 8) :
    commonFields mw pw chan &&& 0x01EC8120 = 0 := by
  revert chan
  revert pw
  revert mw
  decide

/-- The common writes are one write of SxCR. -/
theorem configure_commonWrites {mw pw : Nat} (chan : Nat) (ws : List ConfigWrite) (y : Stream) (hm : mw ∈ [1, 2, 4])
    (hp : pw ∈ [1, 2, 4]) :
    configure (commonWrites mw pw chan ++ ws) y =
      configure ws { y with cr := withField y.cr 0x0E007EC0 (commonFields mw pw chan) } :=
  congrArg (fun cr => configure ws { y with cr := cr }) (withField_commonFields chan y.cr hm hp)

/-- A stream acquired for a single transfer. -/
def Stream.acquired (y : Stream) (r : SingleRec) : Stream := { y with fsm := .single r }

theorem Stream.Configurable.acquired {y : Stream} (h : y.Configurable) (r : SingleRec) :
    (y.acquired r).Configurable :=
  ⟨h.inactive, h.reserved⟩

/-- What SB_START leaves of an acquired stream before its enable (R116). -/
theorem configure_singleWrites {chan : Nat} (circ : Bool) {src : Buf} {tgt : Target} (y : Stream) (r : SingleRec)
    (hchan : chan < 8) (hsrc : src.width ∈ [1, 2, 4]) (htgt : tgt.width ∈ [1, 2, 4]) :
    configure (singleWrites chan circ src tgt) (y.acquired r) = { y with
      cr := withField y.cr 0x0E0C7FC0 (commonFields src.width tgt.width chan ||| if circ then 0x100 else 0)
      ndtr := BitVec.ofNat 16 src.len
      par := tgt.addr
      m0ar := src.addr
      fsm := .single r } := by
  have hapart : commonFields src.width tgt.width chan &&& 0x000C0100 = 0 :=
    and_eq_zero_of_submask (commonFields_apart hsrc htgt hchan) rfl
  rw [singleWrites, configure_commonWrites _ _ _ hsrc htgt]
  simp only [configure, ConfigWrite.apply, withField_withField _ _ _ hapart]
  rfl

/-- The configuration that a start request leaves is outside scope exactly when its widths differ or a field outside
scope was left over (R83). `mode` is what it sets of CIRC and DBM: one-shot, circular, or double-buffered. -/
theorem cfgUnmodelled_started {mw pw chan : Nat} {mode : Word} (cr : Word) (hm : mw ∈ [1, 2, 4]) (hp : pw ∈ [1, 2, 4])
    (hchan : chan < 8) (hmode : mode ∈ [0, 0x100, 0x40100]) :
    cfgUnmodelled (withField cr 0x0E0C7FC0 (commonFields mw pw chan ||| mode)) = true ↔
      pw ≠ mw ∨ cr &&& 0x01E08020 ≠ 0 := by
  have hset : cfgUnmodelled ((commonFields mw pw chan ||| mode) &&& 0x000C7FC0) = decide (pw ≠ mw) := by
    simp only [List.mem_cons, List.not_mem_nil, or_false] at hmode
    revert chan
    revert pw
    revert mw
    rcases hmode with rfl | rfl | rfl <;> decide
  have hmode_apart : mode &&& 0x01E08020 = 0 := by
    simp only [List.mem_cons, List.not_mem_nil, or_false] at hmode
    rcases hmode with rfl | rfl | rfl <;> rfl
  have hapart : (commonFields mw pw chan ||| mode) &&& 0x01E08020 = 0 := by
    rw [BitVec.and_or_distrib_right, and_eq_zero_of_submask (commonFields_apart hm hp hchan) rfl, hmode_apart]
    rfl
  rw [cfgUnmodelled_iff_parts, withField_and_outside _ (by decide) hapart, withField_and_inside _ _ (by decide), hset,
    decide_eq_true_iff, or_comm]

/-- The word that a start request leaves in SxCR before its enable, its fields written out. -/
theorem withField_started_eq {mw pw chan : Nat} {mode : Word} {cr : Word} (hen : crEn cr = false) :
    withField cr 0x0E0C7FC0 (commonFields mw pw chan ||| mode) =
      (cr &&& ~~~0x0E0C7FC1) ||| sizeFields mw pw ||| 0x440 ||| BitVec.ofNat 32 (chan * 33554432) ||| mode := by
  have hself : cr &&& ~~~0x1 = cr := crDisable_eq_self hen
  have hmask : cr &&& ~~~(0x0E0C7FC1 : Word) = cr &&& ~~~0x0E0C7FC0 := by
    rw [← hself, BitVec.and_assoc, BitVec.and_assoc]
    rfl
  rw [hmask, withField, commonFields, ← BitVec.or_assoc, ← BitVec.or_assoc, ← BitVec.or_assoc]

/-! ## SB_START -/

theorem sbCheck_passed {p : Params} {c : Ctrl} {x : StreamIx} {chan : Nat} {src : Buf} {tgt : Target}
    (hsrc : src.width ∈ [1, 2, 4]) (htgt : tgt.width ∈ [1, 2, 4]) (hpos : 1 ≤ src.len) (hle : src.len ≤ 65535)
    (hpair : allowedPair p c x chan tgt.periph = true) : sbCheck p c x chan src tgt = none := by
  simp [sbCheck, (widthOk_iff _).2 hsrc, (widthOk_iff _).2 htgt, (lenOk_iff _).2 ⟨hpos, hle⟩, hpair]

/-- The record of a single transfer just acquired (R116 step 0). -/
def acquiredRec (chan : Nat) (circ : Bool) (src : Buf) (tgt : Target) : SingleRec :=
  { src := src, tgt := tgt, chan := chan, circ := circ, started := false, errSeen := false }

/-- SB_START whose preconditions hold acquires the stream; its sixteen host steps are left (R116). -/
theorem exec_sbStart_acquired {s : State} {c : Ctrl} {x : StreamIx} {chan : Nat} {circ : Bool} {src : Buf}
    {tgt : Target} (hchan : chan < 8) (hidle : (s.stream c x).fsm = .idle)
    (hcheck : sbCheck s.params c x chan src tgt = none) :
    exec (.sbStart c x chan circ src tgt) s =
      .next (s.inRequest c x ((s.stream c x).acquired (acquiredRec chan circ src tgt))
        ({ c := c, s := x, t := 0, ops := configSteps (singleWrites chan circ src tgt) ++ enableSeq,
            result := .transfer } :: s.stack) s.trace) := by
  refine (needChan_ok hchan).trans ((needIdle_idle hidle).trans ?_)
  rw [hcheck]
  rfl

/-- A count of 1 to 65535 is not 0 in the count register. -/
theorem ofNat_count_ne_zero {n : Nat} (hpos : 1 ≤ n) (hle : n ≤ 65535) : BitVec.ofNat 16 n ≠ 0 := by
  intro h
  have hmod : n % 65536 = 0 := by simpa using congrArg BitVec.toNat h
  omega

/-- Of SB_START's accesses before the enable write exactly one writes SxNDTR, with the length (R117). -/
theorem startAccesses_singleWrites_ndtr (c : Ctrl) (x : StreamIx) (chan : Nat) (circ : Bool) (src : Buf) (tgt : Target)
    (y : Stream) :
    (startAccesses c x (singleWrites chan circ src tgt) y).filter (fun a => a.aw = awWord true c (.stream x .ndtr)) =
      [accessOf true c (.stream x .ndtr) (BitVec.ofNat 32 src.len)] := by
  simp [startAccesses, singleWrites, commonWrites, configAccesses, ConfigWrite.accesses, accessOf, awWord_inj, marOf]

theorem circField_mem (circ : Bool) : (if circ then 0x100 else 0) ∈ [(0 : Word), 0x100, 0x40100] := by
  cases circ <;> decide

/-- Settles O30: the thirteen writes leave a configuration that passes the enable checks. -/
theorem singleStartConfiguresAndEnables : Obligations.SingleStartConfiguresAndEnables := by
  rintro s c x chan circ src tgt _ w cr rfl hidle hinv hen htc hte hht hscope hchan hsrc hwidth hpos hle hpair rfl rfl
  have htgt : tgt.width ∈ [1, 2, 4] := hwidth ▸ hsrc
  have hacq := (hinv.configurable hen).acquired (acquiredRec chan circ src tgt)
  have hws := singleWrites_ok circ hchan hsrc htgt hle
  have hconf := configure_singleWrites circ (s.stream c x) (acquiredRec chan circ src tgt) hchan hsrc htgt
  have hcfg := cfgUnmodelled_started (s.stream c x).cr hsrc htgt hchan (circField_mem circ)
  have hcheck : enChecks s.params (configure (singleWrites chan circ src tgt)
      ((s.stream c x).acquired (acquiredRec chan circ src tgt))) = none := by
    rw [hconf]
    refine enChecks_passed (Bool.eq_false_iff.2 fun h => ?_) (ofNat_count_ne_zero hpos hle) htc hte hht
    exact (hcfg.1 h).elim (· hwidth) (· hscope)
  refine ⟨_, _, startAccesses c x (singleWrites chan circ src tgt) _,
    exec_sbStart_acquired hchan hidle (sbCheck_passed hsrc htgt hpos hle hpair), congrArg _ (inRequest_stream ..), rfl,
    hostTurns_start_taken hws hacq hcheck, ?_, rfl, startAccesses_singleWrites_ndtr .., startAccesses_crEn hws hacq⟩
  rw [hconf, ← sizeFields_self hsrc, withField_started_eq hen, hwidth]
  rfl

/-- Settles O54: the thirteen writes leave a configuration that an enable check refuses. -/
theorem singleStartEnableFaults : Obligations.SingleStartEnableFaults := by
  rintro s c x chan circ src tgt _ m p cr f rfl hidle hinv hen hchan hsrc htgt hpos hle hpair rfl rfl rfl hfault
  have hacq := (hinv.configurable hen).acquired (acquiredRec chan circ src tgt)
  have hws := singleWrites_ok circ hchan hsrc htgt hle
  have hconf := configure_singleWrites circ (s.stream c x) (acquiredRec chan circ src tgt) hchan hsrc htgt
  have hcfg := cfgUnmodelled_started (s.stream c x).cr hsrc htgt hchan (circField_mem circ)
  have hcheck : enChecks s.params (configure (singleWrites chan circ src tgt)
      ((s.stream c x).acquired (acquiredRec chan circ src tgt))) = some f := by
    rw [hconf]
    rcases hfault with ⟨rfl, hbad⟩ | ⟨rfl, hwidth, hscope, hstale⟩
    · exact enChecks_unmodelled _ (hcfg.2 hbad)
    · refine enChecks_staleFlags (Bool.eq_false_iff.2 fun h => ?_) (ofNat_count_ne_zero hpos hle) hstale
      exact (hcfg.1 h).elim (· hwidth) (· hscope)
  refine ⟨_, _, startAccesses c x (singleWrites chan circ src tgt) _,
    exec_sbStart_acquired hchan hidle (sbCheck_passed hsrc htgt hpos hle hpair),
    hostTurns_start_refused hws hacq hcheck, ?_, rfl, startAccesses_crEn hws hacq⟩
  rw [hconf, BitVec.or_assoc _ (if src.width = 1 then _ else _), ← sizeFields_eq hsrc htgt,
    ← withField_started_eq hen]
  rfl

end Sys2Proof.Machine

namespace Sys2Proof.Machine

/-! ## DB_START (R122, R123) -/

/-- DB_START on an idle stream returns the error of its preconditions and does nothing else (R122). -/
theorem exec_dbStart_refused {s : State} {c : Ctrl} {x : StreamIx} {chan : Nat} {b0 b1 : Buf} {tgt : Target}
    {e : CfgError} (hchan : chan < 8) (hidle : (s.stream c x).fsm = .idle)
    (h : dbCheck s.params c x chan b0 b1 tgt = some e) :
    exec (.dbStart c x chan b0 b1 tgt) s = .next { s with ret := .cfgError e } := by
  refine (needChan_ok hchan).trans ((needIdle_idle hidle).trans ?_)
  rw [h]
  rfl

/-- Settles O36: the error returned is the first of `dbCheck`'s conditions that fails. -/
theorem doubleStartPreconditions : Obligations.DoubleStartPreconditions := by
  intro s c x chan b0 b1 tgt hchan hidle
  refine ⟨fun hlen => ?_, fun hlen hwidth => ?_, fun hlen hwidth hbad => ?_, fun hlen hwidth hbuf htgt hcount => ?_,
    fun hlen hwidth hbuf htgt hpos hle hpair => ?_⟩
  all_goals refine exec_dbStart_refused hchan hidle ?_
  · exact if_pos hlen
  · simp [dbCheck, hlen, hwidth]
  · simp only [← widthOk_iff, Bool.not_eq_true] at hbad
    cases hbuf : widthOk b0.width
    · simp [dbCheck, hlen, ← hwidth, hbuf]
    · have htgt : widthOk tgt.width = false := hbad.resolve_left (by simp [hbuf])
      simp [dbCheck, hlen, ← hwidth, hbuf, htgt]
  · rw [← widthOk_iff] at hbuf htgt
    have hbad : lenOk b1.len = false := Bool.eq_false_iff.2 fun h => by
      have := (lenOk_iff _).1 h
      omega
    simp [dbCheck, hlen, ← hwidth, hbuf, htgt, hbad]
  · rw [← widthOk_iff] at hbuf htgt
    have hok : lenOk b1.len = true := (lenOk_iff _).2 (by omega)
    simp [dbCheck, hlen, ← hwidth, hbuf, htgt, hok, hpair]

theorem dbCheck_passed {p : Params} {c : Ctrl} {x : StreamIx} {chan : Nat} {b0 b1 : Buf} {tgt : Target}
    (hbuf : b0.width ∈ [1, 2, 4]) (hwidth : b1.width = b0.width) (htgt : tgt.width ∈ [1, 2, 4]) (hpos : 1 ≤ b0.len)
    (hle : b0.len ≤ 65535) (hlen : b1.len = b0.len) (hpair : allowedPair p c x chan tgt.periph = true) :
    dbCheck p c x chan b0 b1 tgt = none := by
  simp [dbCheck, hlen, hwidth, (widthOk_iff _).2 hbuf, (widthOk_iff _).2 htgt, (lenOk_iff _).2 ⟨hpos, hle⟩, hpair]

/-- The writes of DB_START. -/
def doubleWrites (chan : Nat) (b0 b1 : Buf) (tgt : Target) : List ConfigWrite :=
  commonWrites b0.width tgt.width chan ++
    [.field 0x00000100 0x00000100, .field 0x00040000 0x00040000, .field 0x00080000 0, .buffer false b0.addr,
      .buffer true b1.addr, .count b0.len, .target tgt.addr]

theorem doubleWrites_ok {chan : Nat} {b0 : Buf} (b1 : Buf) {tgt : Target} (hchan : chan < 8)
    (hbuf : b0.width ∈ [1, 2, 4]) (htgt : tgt.width ∈ [1, 2, 4]) (hle : b0.len ≤ 65535) :
    ∀ w ∈ doubleWrites chan b0 b1 tgt, w.Ok := by
  refine List.forall_mem_append.2 ⟨commonWrites_ok hbuf htgt hchan, ?_⟩
  simp only [List.forall_mem_cons]
  exact ⟨.field rfl rfl rfl, .field rfl rfl rfl, .field rfl rfl rfl, trivial, trivial, hle, trivial,
    List.forall_mem_nil _⟩

/-- CIRC, DBM and CT, written one after the other, are one field replaced. -/
theorem withField_doubleMode (cr : Word) :
    withField (withField (withField cr 0x00000100 0x00000100) 0x00040000 0x00040000) 0x00080000 0 =
      withField cr 0x000C0100 0x40100 :=
  (congrArg (withField · 0x00080000 0) (withField_withField cr _ _ rfl)).trans (withField_withField cr _ _ rfl)

/-- A stream with its controller FSM at DOUBLE, the record `r` (R34). -/
def Stream.asDouble (y : Stream) (r : DoubleRec) : Stream := { y with fsm := .double r }

theorem Stream.Configurable.asDouble {y : Stream} (h : y.Configurable) (r : DoubleRec) :
    (y.asDouble r).Configurable :=
  ⟨h.inactive, h.reserved⟩

/-- What DB_START leaves of an acquired stream before its enable (R123). -/
theorem configure_doubleWrites {chan : Nat} {b0 : Buf} (b1 : Buf) {tgt : Target} (y : Stream) (r : DoubleRec)
    (hchan : chan < 8) (hbuf : b0.width ∈ [1, 2, 4]) (htgt : tgt.width ∈ [1, 2, 4]) :
    configure (doubleWrites chan b0 b1 tgt) (y.asDouble r) = { y with
      cr := withField y.cr 0x0E0C7FC0 (commonFields b0.width tgt.width chan ||| 0x40100)
      ndtr := BitVec.ofNat 16 b0.len
      par := tgt.addr
      m0ar := b0.addr
      m1ar := b1.addr
      fsm := .double r } := by
  have hapart : commonFields b0.width tgt.width chan &&& 0x000C0100 = 0 :=
    and_eq_zero_of_submask (commonFields_apart hbuf htgt hchan) rfl
  rw [doubleWrites, configure_commonWrites _ _ _ hbuf htgt]
  simp only [configure, ConfigWrite.apply, withField_doubleMode, withField_withField _ _ _ hapart]
  rfl

/-- The record of a double-buffered transfer just acquired (R123 step 0). -/
def acquiredDoubleRec (chan : Nat) (b0 b1 : Buf) (tgt : Target) : DoubleRec :=
  { buf0 := b0, buf1 := b1, tgt := tgt, chan := chan, started := false, marker := false, inReplace := none }

/-- DB_START whose preconditions hold acquires the stream; its twenty-one host steps are left (R123). -/
theorem exec_dbStart_acquired {s : State} {c : Ctrl} {x : StreamIx} {chan : Nat} {b0 b1 : Buf} {tgt : Target}
    (hchan : chan < 8) (hidle : (s.stream c x).fsm = .idle) (hcheck : dbCheck s.params c x chan b0 b1 tgt = none) :
    exec (.dbStart c x chan b0 b1 tgt) s =
      .next (s.inRequest c x ((s.stream c x).asDouble (acquiredDoubleRec chan b0 b1 tgt))
        ({ c := c, s := x, t := 0, ops := configSteps (doubleWrites chan b0 b1 tgt) ++ enableSeq,
            result := .transfer } :: s.stack) s.trace) := by
  refine (needChan_ok hchan).trans ((needIdle_idle hidle).trans ?_)
  rw [hcheck]
  rfl

/-- Settles O37: the eleven writes leave a configuration that passes the enable checks. -/
theorem doubleStartConfiguresAndEnables : Obligations.DoubleStartConfiguresAndEnables := by
  rintro s c x chan b0 b1 tgt _ w cr rfl hidle hinv hen htc hte hht hscope hchan hbuf hwidth htw hpos hle hlen hpair
    rfl rfl
  have htgt : tgt.width ∈ [1, 2, 4] := htw ▸ hbuf
  have hacq := (hinv.configurable hen).asDouble (acquiredDoubleRec chan b0 b1 tgt)
  have hws := doubleWrites_ok b1 hchan hbuf htgt hle
  have hconf := configure_doubleWrites b1 (s.stream c x) (acquiredDoubleRec chan b0 b1 tgt) hchan hbuf htgt
  have hcfg := cfgUnmodelled_started (mode := 0x40100) (s.stream c x).cr hbuf htgt hchan (by decide)
  have hcheck : enChecks s.params (configure (doubleWrites chan b0 b1 tgt)
      ((s.stream c x).asDouble (acquiredDoubleRec chan b0 b1 tgt))) = none := by
    rw [hconf]
    refine enChecks_passed (Bool.eq_false_iff.2 fun h => ?_) (ofNat_count_ne_zero hpos hle) htc hte hht
    exact (hcfg.1 h).elim (· htw) (· hscope)
  refine ⟨_, _, startAccesses c x (doubleWrites chan b0 b1 tgt) _,
    exec_dbStart_acquired hchan hidle (dbCheck_passed hbuf hwidth htgt hpos hle hlen hpair),
    congrArg _ (inRequest_stream ..), rfl, hostTurns_start_taken hws hacq hcheck, ?_, rfl, startAccesses_crEn hws hacq⟩
  rw [hconf, ← sizeFields_self hbuf, withField_started_eq hen, htw, show (0x40101 : Word) = 0x40100 ||| enBit from rfl,
    ← BitVec.or_assoc]
  rfl

/-- Settles O55: the eleven writes leave a configuration that an enable check refuses. -/
theorem doubleStartEnableFaults : Obligations.DoubleStartEnableFaults := by
  rintro s c x chan b0 b1 tgt _ m p cr f rfl hidle hinv hen hchan hbuf hwidth htgt hpos hle hlen hpair rfl rfl rfl
    hfault
  have hacq := (hinv.configurable hen).asDouble (acquiredDoubleRec chan b0 b1 tgt)
  have hws := doubleWrites_ok b1 hchan hbuf htgt hle
  have hconf := configure_doubleWrites b1 (s.stream c x) (acquiredDoubleRec chan b0 b1 tgt) hchan hbuf htgt
  have hcfg := cfgUnmodelled_started (mode := 0x40100) (s.stream c x).cr hbuf htgt hchan (by decide)
  have hcheck : enChecks s.params (configure (doubleWrites chan b0 b1 tgt)
      ((s.stream c x).asDouble (acquiredDoubleRec chan b0 b1 tgt))) = some f := by
    rw [hconf]
    rcases hfault with ⟨rfl, hbad⟩ | ⟨rfl, htw, hscope, hstale⟩
    · exact enChecks_unmodelled _ (hcfg.2 hbad)
    · refine enChecks_staleFlags (Bool.eq_false_iff.2 fun h => ?_) (ofNat_count_ne_zero hpos hle) hstale
      exact (hcfg.1 h).elim (· htw) (· hscope)
  refine ⟨_, _, startAccesses c x (doubleWrites chan b0 b1 tgt) _,
    exec_dbStart_acquired hchan hidle (dbCheck_passed hbuf hwidth htgt hpos hle hlen hpair),
    hostTurns_start_refused hws hacq hcheck, ?_, rfl, startAccesses_crEn hws hacq⟩
  rw [hconf, BitVec.or_assoc _ (if b0.width = 1 then _ else _), ← sizeFields_eq hbuf htgt,
    ← withField_started_eq hen]
  rfl

/-! ## DB_RESET (R129) -/

theorem needDouble_double {c : Ctrl} {x : StreamIx} {s k : State} {r : DoubleRec}
    (hfsm : (s.stream c x).fsm = .double r) (hcb : r.inReplace = none) : needDouble c x s k = .next k := by
  rw [needDouble, hfsm]
  exact if_neg (by simp [hcb])

/-- Settles O42: outside the callback DB_RESET is a release. -/
theorem doubleResetReleases : Obligations.DoubleResetReleases := by
  rintro s c x r _ rfl hfsm hcb hinv
  refine ⟨_, needDouble_double hfsm hcb, ?_⟩
  rw [beginRequest_readCr]
  refine (hostTurns_release_afterRead hinv).trans ?_
  rw [List.append_assoc]
  rfl

/-! ## DB_POLL (R124) -/

/-- DB_POLL on its way to Continue: the SxCR value it last read, and the host steps left. -/
def pollFrame (c : Ctrl) (x : StreamIx) (t : Word) (ops : List HostOp) : Frame :=
  { c := c, s := x, t := t, ops := ops, result := .cont }

/-- DB_POLL outside the callback runs step 1 at once: on to the release if TEIF is set, else to step 2. -/
theorem exec_dbPoll {s : State} {c : Ctrl} {x : StreamIx} {r : DoubleRec} (hfsm : (s.stream c x).fsm = .double r)
    (hcb : r.inReplace = none) :
    exec (.dbPoll c x) s =
      .next (s.inRequest c x (s.stream c x)
        ((if (s.stream c x).teif then { c := c, s := x, t := 0, ops := releaseSeq, result := .failure }
          else pollFrame c x 0 [.pollTarget]) :: s.stack)
        (s.trace ++ [s.isrAccess c x])) := by
  refine (needDouble_double hfsm hcb).trans (congrArg _ ?_)
  rw [State.inRequest, setStream_self]
  simp only [State.beginRequest, State.runOp, hasBits_isrRead_te]
  cases (s.stream c x).teif <;> rfl

theorem exec_dbPoll_of_teif_clear {s : State} {c : Ctrl} {x : StreamIx} {r : DoubleRec}
    (hfsm : (s.stream c x).fsm = .double r) (hcb : r.inReplace = none) (hte : (s.stream c x).teif = false) :
    exec (.dbPoll c x) s =
      .next (s.inRequest c x (s.stream c x) (pollFrame c x 0 [.pollTarget] :: s.stack)
        (s.trace ++ [s.isrAccess c x])) := by
  rw [exec_dbPoll hfsm hcb, hte, if_neg Bool.false_ne_true]

section Poll

variable {s : State} {c : Ctrl} {x : StreamIx} {y : Stream} {r : DoubleRec} {t : Word} {old ct : Bool} {nb : Buf}
  {rest : List Frame} {tr : List BusAccess}

/-- Steps 2 and 3: the target is still the marker's, and the poll returns. -/
theorem turn_pollTarget_unchanged (hfsm : y.fsm = .double r) (hct : crCt y.cr = r.marker) :
    (s.inRequest c x y (pollFrame c x t [.pollTarget] :: rest) tr).hostTurn =
      some (s.returned c x y rest (tr ++ [accessOf false c (.stream x .cr) y.crRead]) .cont) := by
  rw [hostTurn_cons rfl (by simp)]
  simp only [State.runOp, State.pollTarget, pollFrame, inRequest_stream, hfsm, crCt_crRead, hct, if_true,
    busRead_inRequest, advance_inRequest]
  rfl

/-- Steps 2 and 4: the target has changed, and the callback for the marker's buffer runs. -/
theorem turn_pollTarget_changed (hfsm : y.fsm = .double r) (hct : crCt y.cr ≠ r.marker) :
    (s.inRequest c x y (pollFrame c x t [.pollTarget] :: rest) tr).hostTurn =
      some (s.inRequest c x (y.asDouble { r with inReplace := some r.marker })
        (pollFrame c x y.crRead [.inCallback r.marker (crCt y.cr)] :: rest)
        (tr ++ [accessOf false c (.stream x .cr) y.crRead])) := by
  rw [hostTurn_cons rfl (by simp)]
  simp only [State.runOp, State.pollTarget, pollFrame, inRequest_stream, hfsm, crCt_crRead, hct, if_false,
    busRead_inRequest, setFsm_inRequest, advance_inRequest]
  rfl

/-- The callback's return gives the stream back as it was, and leaves the rest of step 4 to do. -/
theorem returnCallback_inRequest (hfsm : y.fsm = .double r) (hcb : r.inReplace = none) :
    (s.inRequest c x (y.asDouble { r with inReplace := some old })
        (pollFrame c x t [.inCallback old ct] :: rest) tr).returnCallback nb =
      some (s.inRequest c x y (pollFrame c x t [.install old ct nb] :: rest) tr) := by
  have hrec : { r with inReplace := none } = r := by rw [← hcb]
  have hback : { y with fsm := .double { r with inReplace := none } } = y := by rw [hrec, ← hfsm]
  simp only [State.returnCallback, inRequest_stack, pollFrame, inRequest_stream, Stream.asDouble, setFsm_inRequest,
    hback]
  rfl

theorem replacementOk_iff (nb b : Buf) : replacementOk nb b = true ↔ nb.len = b.len ∧ nb.width = b.width := by
  simp [replacementOk]

/-- A replacement of another length or width is F15, with no register write. -/
theorem turn_install_mismatch (hfsm : y.fsm = .double r) (hnb : replacementOk nb (r.buf old) = false) :
    (s.inRequest c x y (pollFrame c x t [.install old ct nb] :: rest) tr).hostTurn =
      some { s.inRequest c x y rest tr with
        faults := insertFault .replaceMismatch s.faults, ret := .faulted .replaceMismatch } := by
  rw [hostTurn_cons rfl (by simp)]
  simp only [State.runOp, State.install, pollFrame, inRequest_stream, hfsm, hnb]
  rfl

/-- A write of buffer `k`'s address register is the address lock's (R91). -/
theorem writeStreamReg_marOf (p : Params) (k : Bool) (v : Word) (y : Stream) :
    writeStreamReg p (marOf k) v y = writeMar k v y := by
  cases k <;> rfl

/-- An address write that finds its register locked is F2. -/
theorem turn_install_locked (hfsm : y.fsm = .double r) (hnb : replacementOk nb (r.buf old) = true)
    (hlock : addrWritable old y = false) :
    (s.inRequest c x y (pollFrame c x t [.install old ct nb] :: rest) tr).hostTurn =
      some { s.inRequest c x y rest (tr ++ [accessOf true c (.stream x (marOf old)) nb.addr]) with
        faults := insertFault .lockedAddrWrite s.faults, ret := .faulted .lockedAddrWrite } := by
  have hwrite : writeStreamReg s.params (marOf old) nb.addr y = (y, some .lockedAddrWrite) :=
    (writeStreamReg_marOf ..).trans (writeMar_locked _ hlock)
  rw [hostTurn_cons rfl (by simp)]
  simp only [State.runOp, State.install, pollFrame, inRequest_stream, hfsm, hnb, State.regWrite, inRequest_params,
    hwrite, busWrite_inRequest]
  rfl

/-- Otherwise the address is written, and the record takes the new buffer and the target read. -/
theorem turn_install_taken (hfsm : y.fsm = .double r) (hnb : replacementOk nb (r.buf old) = true)
    (hlock : addrWritable old y = true) :
    (s.inRequest c x y (pollFrame c x t [.install old ct nb] :: rest) tr).hostTurn =
      some (s.returned c x
        (Stream.asDouble (if old then { y with m1ar := nb.addr } else { y with m0ar := nb.addr })
          { r.setBuf old nb with marker := ct })
        rest (tr ++ [accessOf true c (.stream x (marOf old)) nb.addr]) .cont) := by
  have hwrite := (writeStreamReg_marOf s.params old nb.addr y).trans (writeMar_taken nb.addr hlock)
  rw [hostTurn_cons rfl (by simp)]
  simp only [State.runOp, State.install, pollFrame, inRequest_stream, hfsm, hnb, State.regWrite, inRequest_params,
    hwrite, busWrite_inRequest, State.raiseOpt, setFsm_inRequest, advance_inRequest]
  rfl

end Poll

/-- Settles O38: TEIF is looked at before CT, and its exit is a release. -/
theorem pollErrorReleases : Obligations.PollErrorReleases := by
  rintro s c x r _ rfl hfsm hcb hinv hte
  refine ⟨_, exec_dbPoll hfsm hcb, ?_⟩
  rw [hte]
  exact hostTurns_releaseSeq hinv

/-- Settles O39: the second read shows the marker's target, and the poll returns. -/
theorem pollUnchangedTargetWritesNothing : Obligations.PollUnchangedTargetWritesNothing := by
  rintro s c x r _ rfl hfsm hcb hte hct
  refine ⟨_, exec_dbPoll_of_teif_clear hfsm hcb hte, ?_⟩
  rw [hostTurns_one, turn_pollTarget_unchanged hfsm hct, State.returned, setStream_self,
    List.append_assoc]
  rfl

/-- Settles O40: the vacated buffer is the one the engine does not drain, so the lock lets its register be written. -/
theorem pollHandsOffVacatedBuffer : Obligations.PollHandsOffVacatedBuffer := by
  rintro s c x r _ nb rfl hfsm hcb hte hct hdbm hlen hwidth
  have hnb : replacementOk nb (r.buf r.marker) = true := (replacementOk_iff ..).2 ⟨hlen, hwidth⟩
  have hother : (s.stream c x).cr.getLsbD 19 = !r.marker := Bool.eq_not_of_ne hct
  have hlock : addrWritable r.marker (s.stream c x) = true :=
    addrWritable_iff.2 ((em' _).imp_right fun ha => ⟨hdbm ha, hother⟩)
  refine ⟨_, _, _, exec_dbPoll_of_teif_clear hfsm hcb hte,
    (hostTurns_one _).trans (turn_pollTarget_changed hfsm hct), congrArg _ (inRequest_stream ..), rfl,
    returnCallback_inRequest hfsm hcb, (hostTurns_one _).trans ((turn_install_taken hfsm hnb hlock).trans ?_)⟩
  rw [show crCt (s.stream c x).cr = !r.marker from hother, List.append_assoc, List.append_assoc]
  cases r.marker <;> rfl

/-- Settles O41: the replacement is compared first, and the address write is the lock's. -/
theorem handOffRefused : Obligations.HandOffRefused := by
  rintro s c x r _ t old ct nb rest rfl hfsm hstack
  have hself : s = s.inRequest c x (s.stream c x) (pollFrame c x t [.install old ct nb] :: rest) s.trace := by
    rw [pollFrame, ← hstack, inRequest_self]
  refine ⟨fun hbad => ?_, fun hlen hwidth hact hlock => ?_⟩
  · have hnb : replacementOk nb (r.buf old) = false := by
      rw [← Bool.not_eq_true, replacementOk_iff, not_and_or]
      exact hbad
    refine (congrArg State.hostTurn hself).trans ((turn_install_mismatch hfsm hnb).trans ?_)
    rw [State.inRequest, setStream_self]
  · have hnb : replacementOk nb (r.buf old) = true := (replacementOk_iff ..).2 ⟨hlen, hwidth⟩
    have hlocked : addrWritable old (s.stream c x) = false := addrWritable_eq_false_iff.2 ⟨hact, hlock⟩
    refine (congrArg State.hostTurn hself).trans ((turn_install_locked hfsm hnb hlocked).trans ?_)
    rw [State.inRequest, setStream_self]
    rfl

end Sys2Proof.Machine

namespace Sys2Proof.Machine

/-! ## The interrupt request line (R136) -/

/-- DMEIF is always 0 (R25), so its enable has no part in the line. -/
theorem Stream.irq_eq (st : Stream) :
    st.irq = ((st.tcif && crTcie st.cr) || (st.htif && crHtie st.cr) || (st.teif && crTeie st.cr)) := by
  rw [Stream.irq, Bool.false_and, Bool.or_false]

/-- Settles O51: TCIE, HTIE and TEIE are bits 4, 3 and 2 of SxCR. -/
theorem interruptLineFollowsFlags : Obligations.InterruptLineFollowsFlags := by
  intro y
  rw [Stream.irq_eq, crTcie, crHtie, crTeie]
  simp only [Bool.or_eq_true, Bool.and_eq_true, or_assoc]

end Sys2Proof.Machine

namespace Sys2Proof.Machine

/-! ## The agenda's head as an instruction -/

/-- A register access the machine takes and that decodes is run on the state with the agenda moved on. -/
theorem step_eq_exec_of_access {s : State} {aw : BitVec 12} {size : AccessSize} {data : Word} {rest : List Input}
    {i : Instr} (h : s.takes (.access aw size data) rest) (hd : decodeAw aw size data = .ok i) :
    step s = exec i { s with inputs := rest } := by
  simp only [step, State.fetch, h.1, hostEntry_of_takes h (by simp), fetchAccess, hd]

/-- A request word the machine takes and that decodes is run on the state with the agenda moved on. -/
theorem step_eq_exec_of_request {s : State} {rq : BitVec 16} {ops : OpRecord} {rest : List Input} {i : Instr}
    (h : s.takes (.request rq ops) rest) (hd : decodeRq rq ops = .ok i) :
    step s = exec i { s with inputs := rest } := by
  simp only [step, State.fetch, h.1, hostEntry_of_takes h (by simp), fetchRequest, hd]

/-- Settles O4: only an access, a request and an event decode to an instruction. -/
theorem stepRunsDecodedInstruction : Obligations.StepRunsDecodedInstruction := by
  intro s inp rest i htakes hd
  cases inp with
  | access aw size data => exact step_eq_exec_of_access htakes hd
  | request rq ops => exact step_eq_exec_of_request htakes hd
  | event ev d => exact step_eq_exec_of_event htakes.1 hd
  | turn | memRead _ _ | memWrite _ _ _ | callbackReturn _ => cases hd

/-! ## The request in progress goes on -/

theorem turnOutcome_of_hostTurn {s t : State} (h : s.hostTurn = some t) : s.turnOutcome = .next t := by
  simp only [State.turnOutcome, h]

/-- A host turn is taken off the agenda and runs one host step. -/
theorem step_turn {s : State} {rest : List Input} (hl : s.inputs = .turn :: rest) :
    step s = ({ s with inputs := rest } : State).turnOutcome := by
  simp only [step, State.fetch, hl]

theorem step_empty {s : State} (hl : s.inputs = []) : step s = s.turnOutcome := by
  simp only [step, State.fetch, hl]

/-- While the host is inside a request, its new entry waits (R14). -/
theorem hostEntry_of_not_ready {s : State} (hbusy : s.hostReady = false) (rest : List Input) (k : State → Fetched) :
    hostEntry s rest k = .done s.turnOutcome :=
  if_neg (Bool.eq_false_iff.1 hbusy)

/-- A host entry that waits leaves the step to the request in progress, and stays on the agenda. -/
theorem step_hostEntry_waits {s : State} {inp : Input} {rest : List Input} (hl : s.inputs = inp :: rest)
    (hevent : ∀ ev d, inp ≠ .event ev d) (hturn : inp ≠ .turn) (hbusy : s.hostReady = false) :
    step s = s.turnOutcome := by
  cases inp with
  | event ev d => exact absurd rfl (hevent ev d)
  | turn => exact absurd rfl hturn
  | access _ _ _ | request _ _ | memRead _ _ | memWrite _ _ _ | callbackReturn _ =>
    simp only [step, State.fetch, hl, hostEntry_of_not_ready hbusy]

/-- Settles O5: in each of the three cases the step is the host's turn. -/
theorem stepContinuesRequest : Obligations.StepContinuesRequest := fun _ _ =>
  ⟨fun _ hl ht => (step_turn hl).trans (turnOutcome_of_hostTurn ht),
    fun hl ht => (step_empty hl).trans (turnOutcome_of_hostTurn ht),
    fun _ _ hl hevent hturn hbusy ht =>
      (step_hostEntry_waits hl hevent hturn hbusy).trans (turnOutcome_of_hostTurn ht)⟩

end Sys2Proof.Machine
